-- ==== Sys2Proof/Word.lean ====
section
/-! DEFINITION. The word types of the C8Emu block (spec 00_scope.md R5 to R7): every value is unsigned, bit 0 is the
least significant bit, and nothing is ever sign-extended. -/

namespace Sys2Proof

/-- An 8-bit value: a general register, a timer, one byte of memory (R20, R34, R35, R38). -/
abbrev Byte := BitVec 8

/-- A 16-bit value: PC, I, IR, a call-stack entry, an instruction word (R24, R30, R31, R36, R70). -/
abbrev Word := BitVec 16

/-- The NNN field: the low 12 bits of an instruction word (R72). -/
abbrev Addr := BitVec 12

/-- A register selector, the X or the Y field: one of the 16 general registers (R72, R75). -/
abbrev Reg := Fin 16

/-- VF, `V[15]`, the register that doubles as the flag (R22, R28). -/
abbrev VF : Reg := 15

end Sys2Proof
end

