-- ==== Sys2Proof/Syntax.lean ====
section
/-! DEFINITION. The 34 instructions of the opcode map (30_encoding.md R77), one constructor per row of
spec/opcode_table.json, in the table's order. X and Y are register selectors, `nn` an immediate byte, `nnn` a 12-bit
address, `n` a count of sprite rows (R72, R74). -/

namespace Sys2Proof

inductive Instr where
  /-- 00E0, clear the framebuffer (R151). -/
  | cls
  /-- 00EE, return from subroutine (R101). -/
  | ret
  /-- 1NNN, jump (R102). -/
  | jpNnn (nnn : Addr)
  /-- 2NNN, call subroutine (R103). -/
  | callNnn (nnn : Addr)
  /-- 3XNN, skip if VX = NN (R111). -/
  | seVxNn (x : Reg) (nn : Byte)
  /-- 4XNN, skip if VX ≠ NN (R112). -/
  | sneVxNn (x : Reg) (nn : Byte)
  /-- 5XY0, skip if VX = VY (R113). -/
  | seVxVy (x y : Reg)
  /-- 6XNN, VX = NN (R121). -/
  | ldVxNn (x : Reg) (nn : Byte)
  /-- 7XNN, VX = VX + NN, no flag (R122). -/
  | addVxNn (x : Reg) (nn : Byte)
  /-- 8XY0, VX = VY (R123). -/
  | ldVxVy (x y : Reg)
  /-- 8XY1, VX = VX OR VY (R124). -/
  | orVxVy (x y : Reg)
  /-- 8XY2, VX = VX AND VY (R125). -/
  | andVxVy (x y : Reg)
  /-- 8XY3, VX = VX XOR VY (R126). -/
  | xorVxVy (x y : Reg)
  /-- 8XY4, VX = VX + VY, VF = carry (R127). -/
  | addVxVy (x y : Reg)
  /-- 8XY5, VX = VX − VY unless it borrows, VF = no borrow (R128). -/
  | subVxVy (x y : Reg)
  /-- 8XY6, VF = bit 0 of VX, VX = VX >> 1; the Y field is carried and not used (R129, R76). -/
  | shrVx (x y : Reg)
  /-- 8XY7, VX = VY − VX, VF = 1 if VX > VY (R130). -/
  | subnVxVy (x y : Reg)
  /-- 8XYE, VF = bit 7 of VX, VX = VX << 1; the Y field is carried and not used (R131, R76). -/
  | shlVx (x y : Reg)
  /-- 9XY0, skip if VX ≠ VY (R114). -/
  | sneVxVy (x y : Reg)
  /-- ANNN, I = NNN (R141). -/
  | ldINnn (nnn : Addr)
  /-- BNNN, jump to NNN + V0 (R104). -/
  | jpV0Nnn (nnn : Addr)
  /-- CXNN, VX = random byte AND NN (R134). -/
  | rndVxNn (x : Reg) (nn : Byte)
  /-- DXYN, XOR an 8 by N sprite at column VX, row VY (R152). -/
  | drwVxVyN (x y : Reg) (n : Nat)
  /-- EX9E, skip if key VX pressed (R161). -/
  | skpVx (x : Reg)
  /-- EXA1, skip if key VX not pressed (R162). -/
  | sknpVx (x : Reg)
  /-- FX07, VX = delay timer (R164). -/
  | ldVxDt (x : Reg)
  /-- FX0A, wait for a key, VX = its index (R163). -/
  | ldVxK (x : Reg)
  /-- FX15, delay timer = VX (R165). -/
  | ldDtVx (x : Reg)
  /-- FX18, sound timer = VX (R166). -/
  | ldStVx (x : Reg)
  /-- FX1E, I = I + VX, VF = 1 if past 0xFFF (R142). -/
  | addIVx (x : Reg)
  /-- FX29, I = VX × 5 (R143). -/
  | ldFVx (x : Reg)
  /-- FX33, store the three decimal digits of VX at I (R144). -/
  | ldBVx (x : Reg)
  /-- FX55, store V0 to VX at I, I = I + X + 1 (R145). -/
  | ldMemVx (x : Reg)
  /-- FX65, load V0 to VX from I, I = I + X + 1 (R146). -/
  | ldVxMem (x : Reg)
  deriving DecidableEq, Repr

end Sys2Proof
end

