-- ==== Sys2Proof/WellFormed.lean ====
section
/-! DEFINITION. Which terms of Instr an instruction word can carry. The types of the fields already bound every
register selector, immediate byte and address (R72: every value of X, Y, NN and NNN is legal); the one field kept as a
count, the number of sprite rows of DXYN, is a 4-bit field and holds 0 to 15 (R74). -/

namespace Sys2Proof

/-- The instruction fits its encoding. -/
def Instr.wellFormed : Instr → Bool
  | .drwVxVyN _ _ n => n < 16
  | .cls | .ret | .jpNnn _ | .callNnn _ | .seVxNn _ _ | .sneVxNn _ _ | .seVxVy _ _ | .ldVxNn _ _ | .addVxNn _ _
  | .ldVxVy _ _ | .orVxVy _ _ | .andVxVy _ _ | .xorVxVy _ _ | .addVxVy _ _ | .subVxVy _ _ | .shrVx _ _
  | .subnVxVy _ _ | .shlVx _ _ | .sneVxVy _ _ | .ldINnn _ | .jpV0Nnn _ | .rndVxNn _ _ | .skpVx _ | .sknpVx _
  | .ldVxDt _ | .ldVxK _ | .ldDtVx _ | .ldStVx _ | .addIVx _ | .ldFVx _ | .ldBVx _ | .ldMemVx _ | .ldVxMem _ => true

end Sys2Proof
end

