-- ==== Sys2Proof/Decode.lean ====
section
/-! DEFINITION. The decoder and the encoder (30_encoding.md R70 to R84). Decoding is a pure function of the word
(R92): it dispatches on the high nibble and then, within a family, on the low nibble or the low byte (R73), and every
fixed digit of a pattern must match; any other word is unrecognised (R78). -/

namespace Sys2Proof

/-- Why bytes decode to no instruction. -/
inductive Reject where
  /-- The word matches none of the 34 patterns (R78). -/
  | unrecognised (w : Word)
  /-- Fewer than the two bytes every instruction takes (R70). -/
  | truncated
  deriving DecidableEq, Repr

/-- `op = w[15:12]` (R72). -/
def fieldOp (w : Word) : BitVec 4 := w.extractLsb' 12 4

/-- `X = w[11:8]` (R72). -/
def fieldX (w : Word) : Reg := (w.extractLsb' 8 4).toFin

/-- `Y = w[7:4]` (R72). -/
def fieldY (w : Word) : Reg := (w.extractLsb' 4 4).toFin

/-- `N = w[3:0]` (R72): the row count of format D, the function nibble of format R. -/
def fieldN (w : Word) : BitVec 4 := w.extractLsb' 0 4

/-- `NN = w[7:0]` (R72): the immediate of format I, the function byte of format S. -/
def fieldNN (w : Word) : Byte := w.extractLsb' 0 8

/-- `NNN = w[11:0]` (R72). -/
def fieldNNN (w : Word) : Addr := w.extractLsb' 0 12

/-- The family op = 0x0: the whole word is fixed (R73). -/
def decodeZero (w : Word) : Except Reject Instr :=
  match fieldNNN w with
  | 0x0E0#12 => .ok .cls
  | 0x0EE#12 => .ok .ret
  | _ => .error (.unrecognised w)

/-- The family op = 0x8: the low nibble selects the operation (R73, R133). -/
def decodeAlu (w : Word) : Except Reject Instr :=
  match fieldN w with
  | 0x0#4 => .ok (.ldVxVy (fieldX w) (fieldY w))
  | 0x1#4 => .ok (.orVxVy (fieldX w) (fieldY w))
  | 0x2#4 => .ok (.andVxVy (fieldX w) (fieldY w))
  | 0x3#4 => .ok (.xorVxVy (fieldX w) (fieldY w))
  | 0x4#4 => .ok (.addVxVy (fieldX w) (fieldY w))
  | 0x5#4 => .ok (.subVxVy (fieldX w) (fieldY w))
  | 0x6#4 => .ok (.shrVx (fieldX w) (fieldY w))
  | 0x7#4 => .ok (.subnVxVy (fieldX w) (fieldY w))
  | 0xE#4 => .ok (.shlVx (fieldX w) (fieldY w))
  | _ => .error (.unrecognised w)

/-- The family op = 0xE: the low byte selects the key test (R73). -/
def decodeKey (w : Word) : Except Reject Instr :=
  match fieldNN w with
  | 0x9E#8 => .ok (.skpVx (fieldX w))
  | 0xA1#8 => .ok (.sknpVx (fieldX w))
  | _ => .error (.unrecognised w)

/-- The family op = 0xF: the low byte selects the operation (R73). -/
def decodeMisc (w : Word) : Except Reject Instr :=
  match fieldNN w with
  | 0x07#8 => .ok (.ldVxDt (fieldX w))
  | 0x0A#8 => .ok (.ldVxK (fieldX w))
  | 0x15#8 => .ok (.ldDtVx (fieldX w))
  | 0x18#8 => .ok (.ldStVx (fieldX w))
  | 0x1E#8 => .ok (.addIVx (fieldX w))
  | 0x29#8 => .ok (.ldFVx (fieldX w))
  | 0x33#8 => .ok (.ldBVx (fieldX w))
  | 0x55#8 => .ok (.ldMemVx (fieldX w))
  | 0x65#8 => .ok (.ldVxMem (fieldX w))
  | _ => .error (.unrecognised w)

/-- An instruction whose last digit is the fixed digit 0 (5XY0, 9XY0; R73). -/
def decodeLastZero (w : Word) (i : Instr) : Except Reject Instr :=
  match fieldN w with
  | 0x0#4 => .ok i
  | _ => .error (.unrecognised w)

/-- Decode of one instruction word (R73, R77, R92). -/
def decodeWord (w : Word) : Except Reject Instr :=
  match fieldOp w with
  | 0x0#4 => decodeZero w
  | 0x1#4 => .ok (.jpNnn (fieldNNN w))
  | 0x2#4 => .ok (.callNnn (fieldNNN w))
  | 0x3#4 => .ok (.seVxNn (fieldX w) (fieldNN w))
  | 0x4#4 => .ok (.sneVxNn (fieldX w) (fieldNN w))
  | 0x5#4 => decodeLastZero w (.seVxVy (fieldX w) (fieldY w))
  | 0x6#4 => .ok (.ldVxNn (fieldX w) (fieldNN w))
  | 0x7#4 => .ok (.addVxNn (fieldX w) (fieldNN w))
  | 0x8#4 => decodeAlu w
  | 0x9#4 => decodeLastZero w (.sneVxVy (fieldX w) (fieldY w))
  | 0xA#4 => .ok (.ldINnn (fieldNNN w))
  | 0xB#4 => .ok (.jpV0Nnn (fieldNNN w))
  | 0xC#4 => .ok (.rndVxNn (fieldX w) (fieldNN w))
  | 0xD#4 => .ok (.drwVxVyN (fieldX w) (fieldY w) (fieldN w).toNat)
  | 0xE#4 => decodeKey w
  | 0xF#4 => decodeMisc w
  | _ => .error (.unrecognised w)

/-- Decode of bytes: the first two, high byte first (R50, R70), and the bytes after them. -/
def decode : List Byte → Except Reject (Instr × List Byte)
  | hi :: lo :: rest =>
    match decodeWord (hi ++ lo) with
    | .ok i => .ok (i, rest)
    | .error r => .error r
  | [_] | [] => .error .truncated

/-- The four bits of a register selector. -/
def regBits (r : Reg) : BitVec 4 := BitVec.ofFin r

/-- Format A (R71, R84). -/
def wordA (op : BitVec 4) (nnn : Addr) : Word := op ++ nnn

/-- Formats I and S: a register and a byte, the immediate or the function byte (R71, R84). -/
def wordI (op : BitVec 4) (x : Reg) (nn : Byte) : Word := op ++ regBits x ++ nn

/-- Formats R and D: two registers and a nibble, the function nibble or the row count (R71, R84). -/
def wordR (op : BitVec 4) (x y : Reg) (n : BitVec 4) : Word := op ++ regBits x ++ regBits y ++ n

/-- The instruction word of an instruction (R84, with the fixed digits of R77). -/
def encodeWord : Instr → Word
  | .cls => 0x00E0
  | .ret => 0x00EE
  | .jpNnn nnn => wordA 0x1 nnn
  | .callNnn nnn => wordA 0x2 nnn
  | .seVxNn x nn => wordI 0x3 x nn
  | .sneVxNn x nn => wordI 0x4 x nn
  | .seVxVy x y => wordR 0x5 x y 0x0
  | .ldVxNn x nn => wordI 0x6 x nn
  | .addVxNn x nn => wordI 0x7 x nn
  | .ldVxVy x y => wordR 0x8 x y 0x0
  | .orVxVy x y => wordR 0x8 x y 0x1
  | .andVxVy x y => wordR 0x8 x y 0x2
  | .xorVxVy x y => wordR 0x8 x y 0x3
  | .addVxVy x y => wordR 0x8 x y 0x4
  | .subVxVy x y => wordR 0x8 x y 0x5
  | .shrVx x y => wordR 0x8 x y 0x6
  | .subnVxVy x y => wordR 0x8 x y 0x7
  | .shlVx x y => wordR 0x8 x y 0xE
  | .sneVxVy x y => wordR 0x9 x y 0x0
  | .ldINnn nnn => wordA 0xA nnn
  | .jpV0Nnn nnn => wordA 0xB nnn
  | .rndVxNn x nn => wordI 0xC x nn
  | .drwVxVyN x y n => wordR 0xD x y (BitVec.ofNat 4 n)
  | .skpVx x => wordI 0xE x 0x9E
  | .sknpVx x => wordI 0xE x 0xA1
  | .ldVxDt x => wordI 0xF x 0x07
  | .ldVxK x => wordI 0xF x 0x0A
  | .ldDtVx x => wordI 0xF x 0x15
  | .ldStVx x => wordI 0xF x 0x18
  | .addIVx x => wordI 0xF x 0x1E
  | .ldFVx x => wordI 0xF x 0x29
  | .ldBVx x => wordI 0xF x 0x33
  | .ldMemVx x => wordI 0xF x 0x55
  | .ldVxMem x => wordI 0xF x 0x65

/-- The two bytes of a word as memory holds them: high byte at the lower address (R50, R84). -/
def wordBytes (w : Word) : List Byte := [w.extractLsb' 8 8, w.extractLsb' 0 8]

/-- The bytes of an instruction. -/
def encode (i : Instr) : List Byte := wordBytes (encodeWord i)

/-- The instruction the decoder reads from the instruction whose bits are `w`, numbered as the opcode table numbers
them: one 16-bit word, so the table's bit numbers are the word's own. -/
def decodeTableWord (nbits w : Nat) : Option Instr :=
  match decode (wordBytes (BitVec.ofNat 16 (w % 2 ^ nbits))) with
  | .ok (i, _) => some i
  | .error _ => none

end Sys2Proof
end

