-- ==== Sys2Proof/Config.lean ====
section
/-! DEFINITION. What the spec leaves open (00_scope.md R5, the rows marked OPEN). Each open value is an opaque
constant with no body, so no proof can learn what it is; the machine reaches it through `Input.value`
(Machine/Ops.lean). The fixed sizes of R5 stand as numerals in the types of State and in the rules that use them. -/

namespace Sys2Proof

/-- `KEYS` (R5, R40; 92_eei_decisions.md D26, D29): the 16 key flags the host presents at the n-th sampled step, where
the state does not list them. A free value (log entry 3). -/
opaque Config.keys : Nat → BitVec 16

/-- `RND` (R5, R134; D14): the n-th byte drawn by an executed CXNN, where the state does not list it. A free value
(log entry 4). -/
opaque Config.rnd : Nat → Byte

/-- `KEYWAIT_PICK` (R5, R163; D13): the n-th choice FX0A makes among the pressed keys, where the state does not list
it. A free value; it is reduced to a position in the list of pressed keys, so only a pressed key is ever reported
(log entry 5). -/
opaque Config.keywaitPick : Nat → Nat

/-- Whether IR holds the word just fetched after the n-th sampled step, if that step stalled: R36 leaves it unsaid.
A free value (log entry 6). -/
opaque Config.irLatchedOnStall : Nat → Bool

/-- What a byte of memory reads as that nothing has written and `MEM_INIT` does not list. DESIGN CHOICE, unsafe: the
spec gives memory no contents before load (R57, R202; D18), and a claim must not rest on this zero (log entry 1). -/
abbrev Config.unwrittenByte : Byte := 0

end Sys2Proof
end

