-- ==== Sys2Proof/Machine/State.lean ====
section
/-! DEFINITION. The state of the block (10_state.md R44), the fault record (60_exceptions.md R170), the outcomes of a
step (40_step_and_fetch.md R95), the inputs the spec leaves open (00_scope.md R5), and the state after cold reset
(70_reset_and_hazards.md R201). All of it is plain data. -/

namespace Sys2Proof.Machine

/-- The fault record FAULT holds: a cause and its information (R170). -/
inductive FaultRecord where
  /-- Code 1: the fetch found PC > 0xFFE; records PC (R171). -/
  | fetchOutOfRange (pc : Word)
  /-- Code 2: 2NNN with SP = 16; records PC (R172). -/
  | stackOverflow (pc : Word)
  /-- Code 3: 00EE with SP = 0; records PC (R173). -/
  | stackUnderflow (pc : Word)
  /-- Code 4: the highest data address of DXYN, FX33, FX55 or FX65 is above 0xFFF; records it, unbounded (R174). -/
  | memOutOfRange (address : Nat)
  /-- Code 5: a sprite bit that is 1 lands off the grid; records the first such cell (R175). -/
  | framebufferOutOfRange (row column : Nat)
  /-- Code 6: EX9E or EXA1 with VX > 15; records VX (R176). -/
  | keyIndexOutOfRange (vx : Byte)
  deriving DecidableEq, Repr

/-- The three ways a step ends (R95). -/
inductive StepOutcome where
  | completed
  | stalled
  | faulted
  deriving DecidableEq, Repr

/-- An input the spec leaves open: the values given for the coming uses, oldest first, and how many have been used.
Past the given values the input is the free value of Config (log entries 3, 4, 5). -/
structure Input (α : Type) where
  given : List α
  used : Nat
  deriving DecidableEq, Repr

/-- Memory as the cells that hold something else than `Config.unwrittenByte`, addresses strictly rising. -/
abbrev Memory := List Host.Cell

/-- `FB[r][c]`: 32 rows, row 0 at the top, of 64 columns, one bit each (R39). -/
abbrev Framebuffer := Vector (Vector Bool 64) 32

/-- The state of the block. -/
structure State where
  /-- `V[0]` to `V[15]` (R20). -/
  v : Vector Byte 16
  /-- The index register I (R30). -/
  i : Word
  /-- The program counter PC (R24). -/
  pc : Word
  /-- The stack pointer SP: the number of entries in use, 0 to 16 (R32). -/
  sp : Fin 17
  /-- The call stack `STACK[0]` to `STACK[15]` (R31). -/
  stack : Vector Word 16
  /-- The delay timer DT (R34). -/
  dt : Byte
  /-- The sound timer ST (R35). -/
  st : Byte
  /-- The instruction word register IR (R36). -/
  ir : Word
  /-- The fault latch FAULT: `none` or one record (R37). -/
  fault : Option FaultRecord
  /-- Memory, addresses 0x000 to 0xFFF (R38). -/
  mem : Memory
  /-- The framebuffer (R39). -/
  fb : Framebuffer
  /-- The key flags as last sampled: bit k is `key[k]` (R40). -/
  keys : BitVec 16
  /-- Cold reset has happened: load and step have a meaning only after it (R200). -/
  initialised : Bool
  /-- The beep output of the last step (R185, R98): an output, not state of the block. -/
  beep : Bool
  /-- How the last step ended (R95), `none` before the first: the model's record, not state of the block. -/
  outcome : Option StepOutcome
  /-- `KEYS`: the key flags of the coming samples. The model's own field. -/
  keyInput : Input (BitVec 16)
  /-- `RND`: the random bytes of the coming CXNN. The model's own field. -/
  rndInput : Input Byte
  /-- `KEYWAIT_PICK`: the choices of the coming FX0A. The model's own field. -/
  pickInput : Input Nat
  deriving DecidableEq, Repr

/-- Reasons for which the machine itself stops with no next state. There is none: every fault the spec gives is
TAKEN, by setting FAULT (R179), and a halted block goes on stepping without effect (R180), so the step after a fault
is a next state as well. Nobody raises this; safe. -/
inductive Fault where
  deriving DecidableEq, Repr

/-- Reasons for which the model gives no meaning. -/
inductive Refusal where
  /-- Raised by an arm of exec whose instruction has no meaning yet; none is left. Safe. -/
  | notModelled (mnemonic : String)
  /-- Raised by a step before cold reset: "Load and step have a meaning only after it" (R200). Safe. -/
  | notInitialised
  deriving DecidableEq, Repr

/-- An input of which nothing is given and nothing has been used. -/
def Input.fresh {α : Type} : Input α := ⟨[], 0⟩

/-- The machine right after cold reset (R201, R44), with nothing listed in memory. `keys` is the host's and has no
reset value (R206): 0 is the model's (log entry 2). `mem` is `MEM_INIT` (R202): empty is the model's (log entry 1). -/
def State.reset : State where
  v := Vector.replicate 16 0
  i := 0
  pc := 0x200
  sp := 0
  stack := Vector.replicate 16 0
  dt := 0
  st := 0
  ir := 0
  fault := none
  mem := []
  fb := Vector.replicate 32 (Vector.replicate 64 false)
  keys := 0
  initialised := true
  beep := false
  outcome := none
  keyInput := Input.fresh
  rndInput := Input.fresh
  pickInput := Input.fresh

end Sys2Proof.Machine
end

