-- ==== Sys2Proof/Machine/Ops.lean ====
section
/-! DEFINITION. The named operations over the state: memory, registers, the call stack, the framebuffer, the inputs,
the ends of a step, taking a fault and leaving the halt, the timer update, and the fetch. Every instruction's meaning
is written over these. -/

namespace Sys2Proof.Machine

/-! ### Memory (20_memory.md) -/

/-- The byte at address `a` (R55). Callers check the bound first (R54). -/
def Memory.read : Memory → Nat → Byte
  | [], _ => Config.unwrittenByte
  | (k, v) :: rest, a => if k = a then v else Memory.read rest a

/-- The cell that holds `v` at `a` in the canonical form: none, where `a` would read as `v` unlisted. -/
def cellsFor (a : Nat) (v : Byte) : Memory := if v = Config.unwrittenByte then [] else [(a, v)]

/-- Write one byte, keeping the canonical form (R55). Callers check the bound first (R54). -/
def Memory.write : Memory → Nat → Byte → Memory
  | [], a, v => cellsFor a v
  | (k, w) :: rest, a, v =>
    if a < k then cellsFor a v ++ (k, w) :: rest
    else if a = k then cellsFor a v ++ rest
    else (k, w) :: Memory.write rest a v

/-- Write bytes at ascending addresses from `a` (R51). -/
def storeBytes : Memory → Nat → List Byte → Memory
  | m, _, [] => m
  | m, a, b :: bs => storeBytes (m.write a b) (a + 1) bs

/-- The `n` bytes at ascending addresses from `a` (R51). -/
def loadBytes (m : Memory) (a : Nat) : Nat → List Byte
  | 0 => []
  | n + 1 => m.read a :: loadBytes m (a + 1) n

/-- The canonical form from the lower bound `lo` on: addresses strictly rising and at most 0xFFF, no cell equal to
what an unlisted address reads as. -/
def Memory.wfFrom : Nat → Memory → Bool
  | _, [] => true
  | lo, (k, v) :: rest => lo ≤ k && k ≤ 0xFFF && v != Config.unwrittenByte && Memory.wfFrom (k + 1) rest

/-- The canonical form of a memory of 4096 bytes (R38). -/
def Memory.wf (m : Memory) : Bool := Memory.wfFrom 0 m

/-! ### Registers (10_state.md) -/

/-- `V[x]` (R9, R20). -/
def State.getV (s : State) (x : Reg) : Byte := s.v[x]

/-- `V[x] <- b` (R9, R20): no register is hard-wired. -/
def State.setV (s : State) (x : Reg) (b : Byte) : State := { s with v := s.v.set x.val b x.isLt }

/-- `I <- w` (R9, R30). -/
def State.setI (s : State) (w : Word) : State := { s with i := w }

/-- `pc <- w` (R9, R24). The target is not checked here; a bad one faults at the next fetch (R100). -/
def State.setPc (s : State) (w : Word) : State := { s with pc := w }

/-- `pc <- PC + 2` (R25). Sixteen-bit addition; no PC a step executes from wraps (R26; log entry 11). -/
def advance (s : State) : State := s.setPc (s.pc + 2)

/-- `pc <- PC + 4` when the condition holds and `PC + 2` when it does not (R110). -/
def skipWhen (c : Bool) (s : State) : State := s.setPc (if c then s.pc + 4 else s.pc + 2)

/-! ### The call stack (R31, R32) -/

/-- `STACK[SP] <- PC`, then SP + 1 (R103); `none` when SP = 16. -/
def pushPc (s : State) : Option State :=
  if h : s.sp.val < 16 then
    some { s with stack := s.stack.set s.sp.val s.pc h, sp := ⟨s.sp.val + 1, by omega⟩ }
  else none

/-- SP − 1, then `STACK[SP]` (R101): the state with the entry popped, and the entry, which is not erased; `none` when
SP = 0. -/
def popEntry (s : State) : Option (State × Word) :=
  if h : 0 < s.sp.val then
    some ({ s with sp := ⟨s.sp.val - 1, by omega⟩ }, s.stack[s.sp.val - 1]'(by omega))
  else none

/-! ### The framebuffer (R39, R150) -/

/-- `FB[r][c]`; a cell off the grid reads as 0, and no caller asks for one. -/
def Framebuffer.cell (f : Framebuffer) (r c : Nat) : Bool :=
  if h : r < 32 ∧ c < 64 then (f[r]'h.1)[c]'h.2 else false

/-- `FB[r][c] <- FB[r][c] ^ 1`; no caller asks for a cell off the grid (R154). -/
def Framebuffer.flip (f : Framebuffer) (r c : Nat) : Framebuffer :=
  if h : r < 32 ∧ c < 64 then f.set r ((f[r]'h.1).set c (!(f[r]'h.1)[c]'h.2) h.2) h.1 else f

/-- Every cell 0 (R151). -/
def Framebuffer.clear : Framebuffer := Vector.replicate 32 (Vector.replicate 64 false)

/-! ### The inputs the spec leaves open (R5) -/

/-- The value the next use gives: the oldest one listed, else the free value `free` of that use. -/
def Input.value {α : Type} (free : Nat → α) (q : Input α) : α :=
  match q.given with
  | [] => free q.used
  | a :: _ => a

/-- The input after one use. -/
def Input.next {α : Type} (q : Input α) : Input α := ⟨q.given.tail, q.used + 1⟩

/-- `key[k] <- keys_in[k] for k = 0..15`, at the start of a step (R40, R90). -/
def sampleKeys (s : State) : State :=
  { s with keys := s.keyInput.value Config.keys, keyInput := s.keyInput.next }

/-- `draw_rnd()` (R134): the random byte of this CXNN. -/
def randomByte (s : State) : Byte := s.rndInput.value Config.rnd

/-- The state with one random byte consumed. -/
def useRandom (s : State) : State := { s with rndInput := s.rndInput.next }

/-- `key[k]` (R9, R40): key k is pressed. -/
def keyDown (s : State) (k : Nat) : Bool := s.keys.getLsbD k

/-- The set P of FX0A: the pressed keys, in ascending order (R163). -/
def pressedKeys (s : State) : List Nat := (List.range 16).filter (keyDown s)

/-- The key reported from the pressed keys `ks`: any member of P, by a choice reduced to a position in it; the only
member when one key is down (R163). -/
def chooseKey (choice : Nat) : List Nat → Nat
  | [] => 0
  | [k] => k
  | k :: l :: ks => (k :: l :: ks).getD (choice % (ks.length + 2)) k

/-- The choice of this FX0A (`KEYWAIT_PICK`, R163). -/
def keyChoice (s : State) : Nat := s.pickInput.value Config.keywaitPick

/-- The state with one choice consumed. -/
def usePick (s : State) : State := { s with pickInput := s.pickInput.next }

/-! ### The three ends of an instruction (R95) -/

/-- The instruction completed: the timer update is due (R95). -/
def complete (s : State) : State := { s with outcome := some .completed }

/-- `stall`: nothing changes and beep is 0 (R9, R90, R96). -/
def stall (s : State) : State := { s with beep := false, outcome := some .stalled }

/-- TAKING A FAULT: `raise F(info)` sets FAULT to the record and ends the step; nothing else is saved, there is no
handler and control goes nowhere, and beep is 0 (R179). -/
def raiseFault (r : FaultRecord) (s : State) : State :=
  { s with fault := some r, beep := false, outcome := some .faulted }

/-- LEAVING THE HALT: no instruction returns from a fault; the host's restart clears FAULT and resets the
control-flow registers, and leaves everything else as it is, raising no beep (R181, R204, R205). Cold reset, the other
way out, is `coldReset` in HostPort.lean. -/
def restart (s : State) : State :=
  { s with
    pc := 0x200, ir := 0, i := 0, sp := 0, dt := 0, st := 0, fault := none, beep := false, outcome := none }

/-- The code of a fault's cause (R170). -/
def FaultRecord.code : FaultRecord → Nat
  | .fetchOutOfRange _ => 1
  | .stackOverflow _ => 2
  | .stackUnderflow _ => 3
  | .memOutOfRange _ => 4
  | .framebufferOutOfRange _ _ => 5
  | .keyIndexOutOfRange _ => 6

/-! ### The parts of a step around the instruction (R90) -/

/-- A timer after one update: one less, and 0 stays 0 (R184, R185). -/
def countDown (t : Byte) : Byte := if t = 0 then 0 else t - 1

/-- `TimerUpdate()` with its beep (R183): 1 exactly when ST goes from 1 to 0. -/
def timerUpdate (s : State) : State :=
  { s with dt := countDown s.dt, st := countDown s.st, beep := s.st = 1 }

/-- The word at PC, high byte at the lower address (R50, R91). -/
def wordAt (m : Memory) (pc : Word) : Word := m.read pc.toNat ++ m.read (pc.toNat + 1)

/-- `Fetch()` (R91): the word at PC, or the fault when PC > 0xFFE. It does not change PC. -/
def fetchWord (s : State) : Except FaultRecord Word :=
  if 0xFFE < s.pc.toNat then .error (.fetchOutOfRange s.pc) else .ok (wordAt s.mem s.pc)

/-- `IR <- w` (R91). -/
def latchWord (w : Word) (s : State) : State := { s with ir := w }

/-- The state an instruction executes on, in a step from `s` that fetched a word: the keys sampled, IR latched (R90). -/
def executeState (s : State) : State := latchWord (wordAt s.mem s.pc) (sampleKeys s)

/-- The end of a step that began in `before`, where its instruction or its fetch has left `after` (R90, R95).
Completed: the timer update. Stalled: nothing but the key sample, and IR as the free value says (R36; log entry 6).
Faulted: the state before the step with FAULT set (R178); the input it sampled is used up (log entry 7). -/
def concludeStep (before after : State) : State :=
  match after.outcome with
  | some .completed => timerUpdate after
  | some .faulted =>
    { before with
      fault := after.fault, beep := false, outcome := some .faulted, keyInput := after.keyInput }
  | some .stalled | none =>
    { after with ir := if Config.irLatchedOnStall before.keyInput.used then after.ir else before.ir }

/-- Apply a function to the next state of an outcome. -/
def mapNext (f : State → State) : Host.Outcome State Fault Refusal → Host.Outcome State Fault Refusal
  | .next s => .next (f s)
  | .fault r => .fault r
  | .refused r => .refused r

end Sys2Proof.Machine
end

