-- ==== Sys2Proof/Machine/Operands.lean ====
section
/-! DEFINITION. The operand forms (30_encoding.md R74, R75; 44_index_memory.md R140): a register, an immediate, an
address, and the block of memory addressed through I. Nothing is sign-extended, scaled or shifted. -/

namespace Sys2Proof.Machine

/-- `zext_16(NNN)` (R74). -/
def addrOf (nnn : Addr) : Word := nnn.setWidth 16

/-- The address of the first byte of an instruction's block: I as a number (R140). Byte k stands at this plus k, with
no reduction modulo 4096 or 65536. -/
def blockStart (s : State) : Nat := s.i.toNat

/-- The highest address of a block of `n` bytes (R54, R140). -/
def blockLast (s : State) (n : Nat) : Nat := blockStart s + n - 1

/-- The block of `n` bytes at I has a byte above 0xFFF; a block of no bytes has none (R54). -/
def blockOverruns (s : State) (n : Nat) : Bool := 1 ≤ n && 0xFFF < blockLast s n

/-- `V[0]` to `V[x]` in order, the operands of FX55 (R145). -/
def firstRegs (s : State) (x : Reg) : List Byte := s.v.toList.take (x.val + 1)

/-- The general registers with `V[0]` to `V[x]` loaded from the block at I (R146). -/
def loadedRegs (s : State) (x : Reg) : Vector Byte 16 :=
  Vector.ofFn fun k : Fin 16 => if k ≤ x then s.mem.read (blockStart s + k.val) else s.v[k]

/-- I after FX55 and FX65: `i0 + X + 1` (R140, R145, R146). -/
def postIndex (s : State) (x : Reg) : Word := BitVec.ofNat 16 (blockStart s + x.val + 1)

/-- The three decimal digits of FX33, by the formula R144 says to reproduce literally. -/
def decimalDigits (vx : Byte) : List Byte :=
  [BitVec.ofNat 8 (vx.toNat / 100), BitVec.ofNat 8 ((vx.toNat / 10) % 10), BitVec.ofNat 8 ((vx.toNat % 100) % 10)]

/-- The cells a sprite byte's 1 bits land on, in ascending columns: bit 7 is the first column (R152, R153 (b)). -/
def rowCells (x0 row : Nat) (b : Byte) : List (Nat × Nat) :=
  ((List.range 8).filter fun c => b.getLsbD (7 - c)).map fun c => (row, x0 + c)

/-- The cells the 1 bits of a sprite land on, rows ascending and columns ascending within a row (R152). -/
def spriteCells (x0 : Nat) : Nat → List Byte → List (Nat × Nat)
  | _, [] => []
  | row, b :: bs => rowCells x0 row b ++ spriteCells x0 (row + 1) bs

/-- A cell on row > 31 or column > 63 (R152, R154). -/
def offGrid (p : Nat × Nat) : Bool := 31 < p.1 || 63 < p.2

/-- The framebuffer with each of the cells XORed with 1 (R152, R155). -/
def xorCells (f : Framebuffer) (cells : List (Nat × Nat)) : Framebuffer :=
  cells.foldl (fun g p => Framebuffer.flip g p.1 p.2) f

end Sys2Proof.Machine
end

