-- ==== Sys2Proof/Machine/Flags.lean ====
section
/-! DEFINITION. The values VF receives as a flag (10_state.md R28), each from the operands as they stood at the start
of the step (00_scope.md R10). The machine has no other flag. -/

namespace Sys2Proof.Machine

/-- 1 or 0 as a byte. -/
def flag (c : Bool) : Byte := if c then 1 else 0

/-- 8XY4: 1 if VY > 0xFF − VX (R127). -/
def carryFlag (vx vy : Byte) : Byte := flag (0xFF - vx.toNat < vy.toNat)

/-- VY > VX, for which 8XY5 borrows and performs no subtraction (R128). -/
def subBorrows (vx vy : Byte) : Bool := vx.toNat < vy.toNat

/-- 8XY6: the bit shifted out at the bottom (R129). -/
def shiftedOutLow (vx : Byte) : Byte := vx &&& 1

/-- 8XY7: 1 if VX > VY, the opposite sense to 8XY5 (R130). -/
def subnFlag (vx vy : Byte) : Byte := flag (vy.toNat < vx.toNat)

/-- 8XYE: the bit shifted out at the top (R131). -/
def shiftedOutHigh (vx : Byte) : Byte := vx >>> 7

/-- FX1E: 1 if the unbounded sum I + VX > 0xFFF (R142). -/
def indexFlag (i : Word) (vx : Byte) : Byte := flag (0xFFF < i.toNat + vx.toNat)

/-- DXYN, drawn path: 1 if any touched cell was 1 before the XOR (R152, R153 (c)). -/
def collisionFlag (f : Framebuffer) (cells : List (Nat × Nat)) : Byte :=
  flag (cells.any fun p => Framebuffer.cell f p.1 p.2)

end Sys2Proof.Machine
end

