-- ==== Sys2Proof/Machine/Alu.lean ====
section
/-! DEFINITION. Register loads and the ALU: 6XNN, 7XNN, 8XY0 to 8XY7, 8XYE, CXNN (43_alu.md). Operands are read from
the state as it stood when the step began; writes land in the order written here, and where X = 15 the later write to
VF is the one it holds (R10, R132; log entry 15). -/

namespace Sys2Proof.Machine

/-- 6XNN, `LD Vx, nn` (R121). -/
def execLdVxNn (x : Reg) (nn : Byte) (s : State) : Host.Outcome State Fault Refusal :=
  .next (complete (advance (s.setV x nn)))

/-- 7XNN, `ADD Vx, nn` (R122): VF is not changed by the carry. -/
def execAddVxNn (x : Reg) (nn : Byte) (s : State) : Host.Outcome State Fault Refusal :=
  .next (complete (advance (s.setV x (s.getV x + nn))))

/-- 8XY0, `LD Vx, Vy` (R123). -/
def execLdVxVy (x y : Reg) (s : State) : Host.Outcome State Fault Refusal :=
  .next (complete (advance (s.setV x (s.getV y))))

/-- 8XY1, `OR Vx, Vy` (R124). -/
def execOrVxVy (x y : Reg) (s : State) : Host.Outcome State Fault Refusal :=
  .next (complete (advance (s.setV x (s.getV x ||| s.getV y))))

/-- 8XY2, `AND Vx, Vy` (R125). -/
def execAndVxVy (x y : Reg) (s : State) : Host.Outcome State Fault Refusal :=
  .next (complete (advance (s.setV x (s.getV x &&& s.getV y))))

/-- 8XY3, `XOR Vx, Vy` (R126). -/
def execXorVxVy (x y : Reg) (s : State) : Host.Outcome State Fault Refusal :=
  .next (complete (advance (s.setV x (s.getV x ^^^ s.getV y))))

/-- 8XY4, `ADD Vx, Vy` (R127): the sum, then the flag. -/
def execAddVxVy (x y : Reg) (s : State) : Host.Outcome State Fault Refusal :=
  .next (complete (advance ((s.setV x (s.getV x + s.getV y)).setV VF (carryFlag (s.getV x) (s.getV y)))))

/-- 8XY5, `SUB Vx, Vy` (R128): on borrow only VF is written; else the flag, then the difference. -/
def execSubVxVy (x y : Reg) (s : State) : Host.Outcome State Fault Refusal :=
  .next (complete (advance
    (if subBorrows (s.getV x) (s.getV y) then s.setV VF (flag false)
     else (s.setV VF (flag true)).setV x (s.getV x - s.getV y))))

/-- 8XY6, `SHR Vx` (R129): the flag, then the shifted value; `V[Y]` is not read. -/
def execShrVx (x _y : Reg) (s : State) : Host.Outcome State Fault Refusal :=
  .next (complete (advance ((s.setV VF (shiftedOutLow (s.getV x))).setV x (s.getV x >>> 1))))

/-- 8XY7, `SUBN Vx, Vy` (R130): the flag, then the difference, performed whether or not it borrows. -/
def execSubnVxVy (x y : Reg) (s : State) : Host.Outcome State Fault Refusal :=
  .next (complete (advance ((s.setV VF (subnFlag (s.getV x) (s.getV y))).setV x (s.getV y - s.getV x))))

/-- 8XYE, `SHL Vx` (R131): the flag, then the shifted value; `V[Y]` is not read. -/
def execShlVx (x _y : Reg) (s : State) : Host.Outcome State Fault Refusal :=
  .next (complete (advance ((s.setV VF (shiftedOutHigh (s.getV x))).setV x (s.getV x <<< 1))))

/-- CXNN, `RND Vx, nn` (R134): a fresh random byte AND NN. -/
def execRndVxNn (x : Reg) (nn : Byte) (s : State) : Host.Outcome State Fault Refusal :=
  .next (complete (advance ((useRandom s).setV x (randomByte s &&& nn))))

end Sys2Proof.Machine
end

