-- ==== Sys2Proof/Machine/Display.lean ====
section
/-! DEFINITION. The display: 00E0, DXYN (45_display.md). -/

namespace Sys2Proof.Machine

/-- 00E0, `CLS` (R151). -/
def execCls (s : State) : Host.Outcome State Fault Refusal :=
  .next (complete (advance { s with fb := Framebuffer.clear }))

/-- The sprite bytes of DXYN: `n` bytes at I (R152). -/
def spriteBytes (s : State) (n : Nat) : List Byte := loadBytes s.mem (blockStart s) n

/-- The drawn path of DXYN past its memory check (R152, R154): the first cell off the grid faults, rows and columns
ascending; else the cells are XORed and VF receives the collision. -/
def drawCells (cells : List (Nat × Nat)) (s : State) : State :=
  match cells.find? offGrid with
  | some p => raiseFault (.framebufferOutOfRange p.1 p.2) s
  | none =>
    complete (advance (State.setV { s with fb := xorCells s.fb cells } VF (collisionFlag s.fb cells)))

/-- DXYN, `DRW Vx, Vy, n` (R152 to R155): VX is the column and VY the row. A start off the grid draws nothing, checks
nothing and leaves VF alone, and still completes (R153 (a)). -/
def execDrwVxVyN (x y : Reg) (n : Nat) (s : State) : Host.Outcome State Fault Refusal :=
  .next <|
    if offGrid ((s.getV y).toNat, (s.getV x).toNat) then complete (advance s)
    else if blockOverruns s n then raiseFault (.memOutOfRange (blockLast s n)) s
    else drawCells (spriteCells (s.getV x).toNat (s.getV y).toNat (spriteBytes s n)) s

end Sys2Proof.Machine
end

