-- ==== Sys2Proof/Machine/Flow.lean ====
section
/-! DEFINITION. Control transfer: 00EE, 1NNN, 2NNN, BNNN (41_flow.md). -/

namespace Sys2Proof.Machine

/-- 00EE, `RET` (R101): the popped entry is the address of the call, and the return adds 2. -/
def execRet (s : State) : Host.Outcome State Fault Refusal :=
  .next <| match popEntry s with
    | none => raiseFault (.stackUnderflow s.pc) s
    | some (t, entry) => complete (t.setPc (entry + 2))

/-- 1NNN, `JP nnn` (R102). -/
def execJpNnn (nnn : Addr) (s : State) : Host.Outcome State Fault Refusal :=
  .next (complete (s.setPc (addrOf nnn)))

/-- 2NNN, `CALL nnn` (R103): pushes the address of this instruction itself. -/
def execCallNnn (nnn : Addr) (s : State) : Host.Outcome State Fault Refusal :=
  .next <| match pushPc s with
    | none => raiseFault (.stackOverflow s.pc) s
    | some t => complete (t.setPc (addrOf nnn))

/-- BNNN, `JP V0, nnn` (R104): the sum is not reduced to 12 bits. -/
def execJpV0Nnn (nnn : Addr) (s : State) : Host.Outcome State Fault Refusal :=
  .next (complete (s.setPc (addrOf nnn + (s.getV 0).setWidth 16)))

end Sys2Proof.Machine
end

