-- ==== Sys2Proof/Machine/IndexMemory.lean ====
section
/-! DEFINITION. The index register and memory: ANNN, FX1E, FX29, FX33, FX55, FX65 (44_index_memory.md). An instruction
that accesses memory checks its highest address before it changes anything (R54, R140, R178). -/

namespace Sys2Proof.Machine

/-- ANNN, `LD I, nnn` (R141). -/
def execLdINnn (nnn : Addr) (s : State) : Host.Outcome State Fault Refusal :=
  .next (complete (advance (s.setI (addrOf nnn))))

/-- FX1E, `ADD I, Vx` (R142): I keeps all 16 bits; VF is 1 when the unbounded sum is above 0xFFF. -/
def execAddIVx (x : Reg) (s : State) : Host.Outcome State Fault Refusal :=
  .next (complete (advance
    ((s.setI (BitVec.ofNat 16 (s.i.toNat + (s.getV x).toNat))).setV VF (indexFlag s.i (s.getV x)))))

/-- FX29, `LD F, Vx` (R143): all 8 bits of VX are multiplied by 5. -/
def execLdFVx (x : Reg) (s : State) : Host.Outcome State Fault Refusal :=
  .next (complete (advance (s.setI (BitVec.ofNat 16 ((s.getV x).toNat * 5)))))

/-- FX33, `LD B, Vx` (R144): hundreds at I, tens at I + 1, ones at I + 2; I is not changed. -/
def execLdBVx (x : Reg) (s : State) : Host.Outcome State Fault Refusal :=
  .next <|
    if blockOverruns s 3 then raiseFault (.memOutOfRange (blockLast s 3)) s
    else complete (advance { s with mem := storeBytes s.mem (blockStart s) (decimalDigits (s.getV x)) })

/-- FX55, `LD [I], Vx` (R145). -/
def execLdMemVx (x : Reg) (s : State) : Host.Outcome State Fault Refusal :=
  .next <|
    if blockOverruns s (x.val + 1) then raiseFault (.memOutOfRange (blockLast s (x.val + 1))) s
    else complete (advance
      { s with mem := storeBytes s.mem (blockStart s) (firstRegs s x), i := postIndex s x })

/-- FX65, `LD Vx, [I]` (R146). -/
def execLdVxMem (x : Reg) (s : State) : Host.Outcome State Fault Refusal :=
  .next <|
    if blockOverruns s (x.val + 1) then raiseFault (.memOutOfRange (blockLast s (x.val + 1))) s
    else complete (advance { s with v := loadedRegs s x, i := postIndex s x })

end Sys2Proof.Machine
end

