-- ==== Sys2Proof/Machine/KeypadTimers.lean ====
section
/-! DEFINITION. The keypad and the timers: EX9E, EXA1, FX0A, FX07, FX15, FX18 (46_keypad_timers.md). The keys are the
flags sampled at the start of the step (R160); the timer update that follows is the step's, not the instruction's
(R94). -/

namespace Sys2Proof.Machine

/-- EX9E, `SKP Vx` (R161): all 8 bits of VX form the index. -/
def execSkpVx (x : Reg) (s : State) : Host.Outcome State Fault Refusal :=
  .next <|
    if 15 < (s.getV x).toNat then raiseFault (.keyIndexOutOfRange (s.getV x)) s
    else complete (skipWhen (keyDown s (s.getV x).toNat) s)

/-- EXA1, `SKNP Vx` (R162). -/
def execSknpVx (x : Reg) (s : State) : Host.Outcome State Fault Refusal :=
  .next <|
    if 15 < (s.getV x).toNat then raiseFault (.keyIndexOutOfRange (s.getV x)) s
    else complete (skipWhen (!keyDown s (s.getV x).toNat) s)

/-- FX0A, `LD Vx, K` (R163): with no key pressed the step stalls and the next one executes it again; else VX is the
index of a pressed key, any of them. -/
def execLdVxK (x : Reg) (s : State) : Host.Outcome State Fault Refusal :=
  .next <| match pressedKeys s with
    | [] => stall s
    | k :: ks => complete (advance ((usePick s).setV x (BitVec.ofNat 8 (chooseKey (keyChoice s) (k :: ks)))))

/-- FX07, `LD Vx, DT` (R164). -/
def execLdVxDt (x : Reg) (s : State) : Host.Outcome State Fault Refusal :=
  .next (complete (advance (s.setV x s.dt)))

/-- FX15, `LD DT, Vx` (R165). -/
def execLdDtVx (x : Reg) (s : State) : Host.Outcome State Fault Refusal :=
  .next (complete (advance { s with dt := s.getV x }))

/-- FX18, `LD ST, Vx` (R166). -/
def execLdStVx (x : Reg) (s : State) : Host.Outcome State Fault Refusal :=
  .next (complete (advance { s with st := s.getV x }))

end Sys2Proof.Machine
end

