-- ==== Sys2Proof/Machine/Skip.lean ====
section
/-! DEFINITION. The conditional skips on registers: 3XNN, 4XNN, 5XY0, 9XY0 (42_skip.md). -/

namespace Sys2Proof.Machine

/-- 3XNN, `SE Vx, nn` (R111). -/
def execSeVxNn (x : Reg) (nn : Byte) (s : State) : Host.Outcome State Fault Refusal :=
  .next (complete (skipWhen (s.getV x == nn) s))

/-- 4XNN, `SNE Vx, nn` (R112). -/
def execSneVxNn (x : Reg) (nn : Byte) (s : State) : Host.Outcome State Fault Refusal :=
  .next (complete (skipWhen (s.getV x != nn) s))

/-- 5XY0, `SE Vx, Vy` (R113). -/
def execSeVxVy (x y : Reg) (s : State) : Host.Outcome State Fault Refusal :=
  .next (complete (skipWhen (s.getV x == s.getV y) s))

/-- 9XY0, `SNE Vx, Vy` (R114). -/
def execSneVxVy (x y : Reg) (s : State) : Host.Outcome State Fault Refusal :=
  .next (complete (skipWhen (s.getV x != s.getV y) s))

end Sys2Proof.Machine
end

