-- ==== Sys2Proof/Machine/Step.lean ====
section
/-! DEFINITION. One step (40_step_and_fetch.md R90): sample the keys, fetch, decode, execute, and the timer update when
the instruction completed. -/

namespace Sys2Proof.Machine

/-- `Step(keys_in, rnd_in)` (R90). A step before cold reset has no meaning (R200). A step while FAULT is set is a
stall, with no fetch and no sample (R97, R180). An unrecognised word stalls (R96). -/
def step (s : State) : Host.Outcome State Fault Refusal :=
  match s.initialised, s.fault with
  | false, _ => .refused .notInitialised
  | true, some _ => .next (stall s)
  | true, none =>
    match fetchWord (sampleKeys s) with
    | .error r => .next (concludeStep s (raiseFault r (sampleKeys s)))
    | .ok w =>
      match decodeWord w with
      | .error _ => .next (concludeStep s (stall (latchWord w (sampleKeys s))))
      | .ok i => mapNext (concludeStep s) (exec i (latchWord w (sampleKeys s)))

/-- The state with the instruction whose bits are `w` (as the opcode table numbers them) stored at PC, where the next
step fetches: two bytes, high byte first (R50). Where PC > 0xFFE nothing can be fetched (R91) and nothing is stored. -/
def State.withFetchWord (s : State) (nbits w : Nat) : State :=
  if 0xFFE < s.pc.toNat then s
  else { s with mem := storeBytes s.mem s.pc.toNat (wordBytes (BitVec.ofNat 16 (w % 2 ^ nbits))) }

end Sys2Proof.Machine
end

