-- ==== Sys2Proof/Machine/HostPort.lean ====
section
/-! DEFINITION. What the outside world does to the block between two steps, and what it reads (10_state.md R45;
70_reset_and_hazards.md; 60_exceptions.md R188, R189). Restart stands in Machine/Ops.lean, beside taking a fault. -/

namespace Sys2Proof.Machine

/-- Cold reset (R200, R201, R202): it writes its values at power-on, and on a halted block, whose FAULT it clears (R37,
R97, R181, D2); on a block that has been reset and is not halted it has no effect. It writes neither memory nor the key
flags, and the inputs are the host's. DESIGN CHOICE, unsafe: R200 says of every later assertion that it has no effect,
and the rules about the halt are taken as the exception to it (log entry 29). -/
def coldReset (s : State) : State :=
  if s.initialised = true ∧ s.fault = none then s
  else
    { State.reset with
      mem := s.mem, keys := s.keys, keyInput := s.keyInput, rndInput := s.rndInput, pickInput := s.pickInput }

/-- The machine right after cold reset with `MEM_INIT` = `m` in memory (R202, R206). -/
def resetWith (m : Memory) : State := { State.reset with mem := m }

/-- Load program (R207, R208): byte k of the image goes to 0x200 + k and nothing else changes; before cold reset it
does nothing, and an image of more than 3584 bytes is refused whole. -/
def loadProgram (image : List Byte) (s : State) : State :=
  if s.initialised && image.length ≤ 3584 then { s with mem := storeBytes s.mem 0x200 image } else s

/-- The host presents the key flags `k` for the next `n` samples, in place of any it presented before (R40, R60, R98). -/
def presentKeys (n : Nat) (k : BitVec 16) (s : State) : State :=
  { s with keyInput := { s.keyInput with given := List.replicate n k } }

/-- One invocation of the driver: `n` steps with the key flags unchanged between them (R98). -/
def invoke (n : Nat) (k : BitVec 16) (s : State) : Host.Outcome State Fault Refusal :=
  Sys2Proof.core.run n (presentKeys n k s)

/-- The framebuffer read port (R45, R189): reading has no effect on the block. -/
def fbRead (s : State) (row : Fin 32) (column : Fin 64) : Bool := (s.fb[row])[column]

/-- The host's actions on the block, one at a time and only between steps (R11, R45). -/
inductive HostAction where
  /-- The strobe: one step (R90). -/
  | step
  /-- The source's Initialize (R200), which also ends a halt (R181). -/
  | coldReset
  /-- The source's Restart (R204). -/
  | restart
  /-- The source's Load program (R207). -/
  | load (image : List Byte)
  /-- Setting the key flags that the next step samples (R60). -/
  | setKeys (k : BitVec 16)
  deriving DecidableEq, Repr

/-- The block after a host action. -/
def act : HostAction → State → Host.Outcome State Fault Refusal
  | .step, s => Sys2Proof.Machine.step s
  | .coldReset, s => .next (Sys2Proof.Machine.coldReset s)
  | .restart, s => .next (Sys2Proof.Machine.restart s)
  | .load image, s => .next (loadProgram image s)
  | .setKeys k, s => .next (presentKeys 1 k s)

end Sys2Proof.Machine
end

