-- ==== Sys2Proof/Safety.lean ====
section
/-! DEFINITION. The words claims use: the invariant of every run, the states that are never final (halted, hung), the
end of a run, what an instruction leaves unchanged, and what the tables of the spec say of a whole step. -/

namespace Sys2Proof.Machine

/-- What every step keeps: cold reset has happened; memory is in its canonical form within 0x000 to 0xFFF (R38); PC is
at most 0x10FE (R26); every stack entry in use holds an address that was fetched from, at most 0xFFE (R31, R101). -/
structure Inv (s : State) : Prop where
  initialised : s.initialised = true
  memory : s.mem.wf = true
  pc : s.pc.toNat ≤ 0x10FE
  stack : ∀ k : Fin 16, k.val < s.sp.val → (s.stack[k]).toNat ≤ 0xFFE

/-- Halted: FAULT is set, and every step is a stall until the host restarts or cold-resets the block (R97, R180,
R181). Never final. -/
def Halted (s : State) : Prop := s.fault ≠ none

/-- Hung: the word at PC is unrecognised, so every step stalls (R96). Never final. -/
def Hung (s : State) : Prop :=
  s.initialised = true ∧ s.fault = none ∧ s.pc.toNat ≤ 0xFFE ∧ ∃ r, decodeWord (wordAt s.mem s.pc) = .error r

/-- A safe run has raised no fault. -/
def Safe (s : State) : Prop := s.fault = none

/-- The suggested `END_OF_RUN` (92_eei_decisions.md D24): the word at PC is 1NNN with NNN = PC, and both timers are 0.
A claim may take another end (R219). -/
def EndOfRun (s : State) : Prop :=
  s.fault = none ∧ s.pc.toNat ≤ 0xFFE ∧ s.dt = 0 ∧ s.st = 0 ∧
    ∃ nnn : Addr, decodeWord (wordAt s.mem s.pc) = .ok (.jpNnn nnn) ∧ addrOf nnn = s.pc

/-! ### Frames -/

/-- The instruction completed (R95). -/
def Completed (t : State) : Prop := t.outcome = some .completed

/-- Every general register but those listed is unchanged. -/
def SameRegsBut (xs : List Reg) (s t : State) : Prop := ∀ r : Reg, r ∉ xs → t.getV r = s.getV r

/-- Every byte of memory reads as before. -/
def SameMem (s t : State) : Prop := ∀ a : Nat, t.mem.read a = s.mem.read a

/-- Every byte of memory outside the `n` bytes from `a` reads as before. -/
def SameMemOutside (a n : Nat) (s t : State) : Prop := ∀ b : Nat, b < a ∨ a + n ≤ b → t.mem.read b = s.mem.read b

/-- The call stack is unchanged. -/
def SameCalls (s t : State) : Prop := t.sp = s.sp ∧ t.stack = s.stack

/-- The two timers are unchanged. -/
def SameTimers (s t : State) : Prop := t.dt = s.dt ∧ t.st = s.st

/-- IR, FAULT, the key sample, the reset latch and the beep output are unchanged. -/
def SameLatches (s t : State) : Prop :=
  t.ir = s.ir ∧ t.fault = s.fault ∧ t.keys = s.keys ∧ t.initialised = s.initialised ∧ t.beep = s.beep

/-- No input has been used. -/
def SameInputs (s t : State) : Prop :=
  t.keyInput = s.keyInput ∧ t.rndInput = s.rndInput ∧ t.pickInput = s.pickInput

/-- Everything but the general registers, I, PC and memory is unchanged. -/
def SameRest (s t : State) : Prop := SameCalls s t ∧ SameTimers s t ∧ t.fb = s.fb ∧ SameLatches s t ∧ SameInputs s t

/-- What a stalled step leaves unchanged: all the state of the block but the key sample and IR (R95). -/
def SameBlock (s t : State) : Prop :=
  t.v = s.v ∧ t.i = s.i ∧ t.pc = s.pc ∧ SameCalls s t ∧ SameTimers s t ∧ t.fault = s.fault ∧ t.mem = s.mem ∧
    t.fb = s.fb ∧ t.initialised = s.initialised

/-! ### Tables of the spec about a whole step -/

/-- The word at PC can be fetched and is the instruction `i`, in a block that is neither halted nor before cold
reset. -/
def AtInstr (s : State) (i : Instr) : Prop :=
  s.initialised = true ∧ s.fault = none ∧ s.pc.toNat ≤ 0xFFE ∧
    decode [s.mem.read s.pc.toNat, s.mem.read (s.pc.toNat + 1)] = .ok (i, [])

/-- The values cold reset writes (R201). -/
def ResetValues (t : State) : Prop :=
  (∀ r : Reg, t.getV r = 0) ∧ t.i = 0 ∧ t.pc = 0x200 ∧ t.sp = 0 ∧ (∀ k : Fin 16, t.stack[k] = 0) ∧ t.dt = 0 ∧
    t.st = 0 ∧ t.ir = 0 ∧ (∀ r c : Nat, r < 32 → c < 64 → Framebuffer.cell t.fb r c = false) ∧ t.fault = none

/-- The PC after a completed step, by instruction (R25). The key skips read the keys as sampled in this step. -/
def PcAfter (i : Instr) (s t : State) : Prop :=
  match i with
  | .jpNnn nnn => t.pc.toNat = nnn.toNat
  | .callNnn nnn => t.pc.toNat = nnn.toNat
  | .jpV0Nnn nnn => t.pc.toNat = nnn.toNat + (s.getV 0).toNat
  | .ret => ∃ k : Fin 16, k.val + 1 = s.sp.val ∧ t.pc = s.stack[k] + 2
  | .seVxNn x nn => t.pc = if s.getV x = nn then s.pc + 4 else s.pc + 2
  | .sneVxNn x nn => t.pc = if s.getV x = nn then s.pc + 2 else s.pc + 4
  | .seVxVy x y => t.pc = if s.getV x = s.getV y then s.pc + 4 else s.pc + 2
  | .sneVxVy x y => t.pc = if s.getV x = s.getV y then s.pc + 2 else s.pc + 4
  | .skpVx x => t.pc = if t.keys.getLsbD (s.getV x).toNat then s.pc + 4 else s.pc + 2
  | .sknpVx x => t.pc = if t.keys.getLsbD (s.getV x).toNat then s.pc + 2 else s.pc + 4
  | _ => t.pc = s.pc + 2

/-- A 1 bit of the sprite that DXYN reads in state `s` lands on row `r`, column `c`: sprite row `r − VY`, and bit 7
is the first column (R152, R153 (b)). -/
def LitCell (s : State) (x y : Reg) (n r c : Nat) : Prop :=
  (s.getV y).toNat ≤ r ∧ r < (s.getV y).toNat + n ∧ (s.getV x).toNat ≤ c ∧ c < (s.getV x).toNat + 8 ∧
    (s.mem.read (s.i.toNat + (r - (s.getV y).toNat))).getLsbD (7 - (c - (s.getV x).toNat)) = true

/-- The drawn path of DXYN with all of the sprite in memory (R152). -/
def DrawReads (s : State) (x y : Reg) (n : Nat) : Prop :=
  (s.getV x).toNat < 64 ∧ (s.getV y).toNat < 32 ∧ (1 ≤ n → s.i.toNat + n - 1 ≤ 0xFFF)

/-- Row `r`, column `c` is off the grid, a 1 bit of the sprite lands on it, and it is the first such cell, rows
ascending and columns ascending within a row (R154, R170). -/
def FirstOffGrid (s : State) (x y : Reg) (n r c : Nat) : Prop :=
  (31 < r ∨ 63 < c) ∧ LitCell s x y n r c ∧
    ∀ r' c' : Nat, LitCell s x y n r' c' → (31 < r' ∨ 63 < c') → r < r' ∨ (r = r' ∧ c ≤ c')

/-- The condition under which each fault record is raised (R170), in a step from `s`. -/
def RaisedBecause (s : State) : FaultRecord → Prop
  | .fetchOutOfRange p => p = s.pc ∧ 0xFFE < s.pc.toNat
  | .stackOverflow p => p = s.pc ∧ s.sp = 16 ∧ ∃ nnn, AtInstr s (.callNnn nnn)
  | .stackUnderflow p => p = s.pc ∧ s.sp = 0 ∧ AtInstr s .ret
  | .memOutOfRange a =>
    0xFFF < a ∧
      ((∃ x, AtInstr s (.ldBVx x) ∧ a = s.i.toNat + 2) ∨
       (∃ x, (AtInstr s (.ldMemVx x) ∨ AtInstr s (.ldVxMem x)) ∧ a = s.i.toNat + x.val) ∨
       ∃ x y n, AtInstr s (.drwVxVyN x y n) ∧ 1 ≤ n ∧ a = s.i.toNat + n - 1 ∧ (s.getV x).toNat < 64 ∧
         (s.getV y).toNat < 32)
  | .framebufferOutOfRange r c =>
    ∃ x y n, AtInstr s (.drwVxVyN x y n) ∧ DrawReads s x y n ∧ FirstOffGrid s x y n r c
  | .keyIndexOutOfRange b => 15 < b.toNat ∧ ∃ x, (AtInstr s (.skpVx x) ∨ AtInstr s (.sknpVx x)) ∧ b = s.getV x

end Sys2Proof.Machine
end

