-- ==== Sys2Proof/Certificates/Slice0/Obligations.lean ====
section
/-! DEFINITION. The statements for the provers. Each docstring names the rules of the spec it formalises; where a
statement rests on a decision of the spec's own or on a choice of the model, it says so and names the log entry. -/

open Sys2Proof Sys2Proof.Machine

/-! ### Reset, restart, load (70_reset_and_hazards.md) -/

/-- R201: the values cold reset writes, from any state before it, and in `State.reset`. -/
def Obligations.ColdResetWritesItsValues : Prop :=
  ResetValues State.reset ∧ ∀ s : State, s.initialised = false → ResetValues (coldReset s)

/-- R200, R202: cold reset of a block that has been reset and is not halted has no effect, and no cold reset writes
memory or the key flags (`MEM_INIT` and `KEYS` are open, D18, D29). R208, D19: a load before cold reset, or of more
than 3584 bytes, does nothing. That R200 leaves room for a halted block, `RestartAndColdResetLeaveTheHalt`, is the
model's choice (log entry 29). -/
def Obligations.ColdResetActsOnceAndBadLoadsDoNothing : Prop :=
  (∀ s : State, s.initialised = true → s.fault = none → coldReset s = s) ∧
  (∀ s : State, (coldReset s).mem = s.mem ∧ (coldReset s).keys = s.keys ∧ (coldReset s).initialised = true) ∧
  ∀ (s : State) (image : List Byte), (s.initialised = false ∨ 3584 < image.length) → loadProgram image s = s

/-- R97, R181 (the spec's decision D2; that they are the exception to R200 is the model's choice, log entry 29): restart
and cold reset each end a halt. Restart sets PC to 0x200; cold reset writes every value of its list and leaves memory,
the key flags and the inputs. -/
def Obligations.RestartAndColdResetLeaveTheHalt : Prop :=
  ∀ s : State, Halted s →
    (¬ Halted (restart s) ∧ (restart s).pc = 0x200) ∧
    (¬ Halted (coldReset s) ∧ ResetValues (coldReset s) ∧ (coldReset s).initialised = true ∧
      (coldReset s).beep = false ∧ SameMem s (coldReset s) ∧ (coldReset s).keys = s.keys ∧ SameInputs s (coldReset s))

/-- R204, R205 (the spec's decision D20): restart resets the control-flow registers, the timers and FAULT, raises no
beep, and leaves registers, stack entries, memory and screen as they are. -/
def Obligations.RestartResetsControlFlowOnly : Prop :=
  ∀ s : State,
    ((restart s).pc = 0x200 ∧ (restart s).ir = 0 ∧ (restart s).i = 0 ∧ (restart s).sp = 0 ∧ (restart s).dt = 0 ∧
      (restart s).st = 0 ∧ (restart s).fault = none ∧ (restart s).beep = false) ∧
    ((∀ r : Reg, (restart s).getV r = s.getV r) ∧ (restart s).stack = s.stack ∧ SameMem s (restart s) ∧
      (restart s).fb = s.fb ∧ (restart s).keys = s.keys)

/-- R207: byte k of the image goes to 0x200 + k, and load writes only memory, and no byte beyond the image. -/
def Obligations.LoadPlacesTheImage : Prop :=
  ∀ (s : State) (image : List Byte), s.initialised = true → s.mem.wf = true → image.length ≤ 3584 →
    (∀ (k : Nat) (h : k < image.length), (loadProgram image s).mem.read (0x200 + k) = image[k]) ∧
    SameMemOutside 0x200 image.length s (loadProgram image s) ∧
    (loadProgram image s).mem.wf = true ∧
    loadProgram image s = { s with mem := (loadProgram image s).mem }

/-! ### Encoding (30_encoding.md) -/

/-- R77, R84: decoding the bytes of a well-formed instruction gives it back, whatever bytes follow. -/
def Obligations.DecodeOfEncodeIsTheInstruction : Prop :=
  ∀ (i : Instr) (rest : List Byte), i.wellFormed = true → decode (encode i ++ rest) = .ok (i, rest)

/-- R77, R84: a word that decodes is the word of the instruction it decodes to, every bit of it, the unused Y field of
8XY6 and 8XYE included; so no two words decode alike. -/
def Obligations.EncodeOfDecodeIsTheWord : Prop :=
  ∀ (w : Word) (i : Instr), decodeWord w = .ok i → encodeWord i = w ∧ i.wellFormed = true

/-- R78 (which the spec derives; the strict reading of the patterns is its decision D6): the unrecognised words, family
by family, and no others. -/
def Obligations.UnrecognisedWordsAreExactlyTheListed : Prop :=
  ∀ w : Word, decodeWord w = .error (.unrecognised w) ↔
    ((w.toNat / 4096 = 0x0 ∧ w.toNat ≠ 0x00E0 ∧ w.toNat ≠ 0x00EE) ∨
     (w.toNat / 4096 = 0x5 ∧ w.toNat % 16 ≠ 0) ∨
     (w.toNat / 4096 = 0x8 ∧ w.toNat % 16 ∈ [0x8, 0x9, 0xA, 0xB, 0xC, 0xD, 0xF]) ∨
     (w.toNat / 4096 = 0x9 ∧ w.toNat % 16 ≠ 0) ∨
     (w.toNat / 4096 = 0xE ∧ w.toNat % 256 ≠ 0x9E ∧ w.toNat % 256 ≠ 0xA1) ∨
     (w.toNat / 4096 = 0xF ∧ w.toNat % 256 ∉ [0x07, 0x0A, 0x15, 0x18, 0x1E, 0x29, 0x33, 0x55, 0x65]))

/-- 95_test_vectors.md E1 to E38, worked there from R72 and R77: words of each format and family, as bits. -/
def Obligations.WrittenWordsDecode : Prop :=
  decodeWord 0b0000000011100000 = .ok .cls ∧
  decodeWord 0b0010111111111111 = .ok (.callNnn 0xFFF) ∧
  decodeWord 0b0011101000000101 = .ok (.seVxNn 10 0x05) ∧
  decodeWord 0b1000001110100100 = .ok (.addVxVy 3 10) ∧
  decodeWord 0b1000001110100110 = .ok (.shrVx 3 10) ∧
  decodeWord 0b1010001011110000 = .ok (.ldINnn 0x2F0) ∧
  decodeWord 0b1101000100100101 = .ok (.drwVxVyN 1 2 5) ∧
  decodeWord 0b1110001110100001 = .ok (.sknpVx 3) ∧
  decodeWord 0b1111001000010101 = .ok (.ldDtVx 2) ∧
  decodeWord 0b1000001110101000 = .error (.unrecognised 0x83A8)

/-! ### The step (40_step_and_fetch.md, 60_exceptions.md) -/

/-- R90 to R95: where the bytes at PC decode to `i`, the step is `exec i` on the state with the keys sampled and IR
latched; then the timer update when the instruction completed; nothing more when it stalled, IR being the fetched word
or the old one (a free choice, log entry 6); and the state before the step with FAULT set when it faulted (log entry
7). -/
def Obligations.StepRunsTheDecodedInstruction : Prop :=
  ∀ (s u : State) (i : Instr), AtInstr s i →
    exec i (latchWord (s.mem.read s.pc.toNat ++ s.mem.read (s.pc.toNat + 1)) (sampleKeys s)) = .next u →
    (u.outcome = some .completed → step s = .next (timerUpdate u)) ∧
    (u.outcome = some .stalled → ∃ w, (w = u.ir ∨ w = s.ir) ∧ step s = .next { u with ir := w }) ∧
    (u.outcome = some .faulted →
      step s = .next { s with
        fault := u.fault, beep := false, outcome := some .faulted, keyInput := u.keyInput })

/-- R79: an unrecognised word has no effect, does not trap, and PC does not move; the same word is met again at the
next step, for ever. -/
def Obligations.UnrecognisedWordStallsForEver : Prop :=
  ∀ (s : State) (k : Nat), Hung s →
    ∃ t, Sys2Proof.core.run (k + 1) s = .next t ∧ Hung t ∧ SameBlock s t ∧ t.beep = false ∧
      t.outcome = some .stalled

/-- R91, R171 (the spec's decisions D1, D17): a fetch from PC > 0xFFE sets FAULT to that PC and changes nothing else. -/
def Obligations.FetchAboveMemoryFaults : Prop :=
  ∀ s : State, s.initialised = true → s.fault = none → 0xFFE < s.pc.toNat →
    ∃ t, step s = .next t ∧ t.fault = some (.fetchOutOfRange s.pc) ∧ SameBlock { s with fault := t.fault } t ∧
      t.beep = false

/-- R97, R180 (the spec's decision D2): while FAULT is set, any number of steps changes nothing and raises no beep. -/
def Obligations.HaltedBlockStaysHalted : Prop :=
  ∀ (s : State) (k : Nat), s.initialised = true → Halted s →
    ∃ t, Sys2Proof.core.run (k + 1) s = .next t ∧ Halted t ∧ SameBlock s t ∧ t.keys = s.keys ∧ t.ir = s.ir ∧
      t.beep = false

/-- R178 (the spec's decision D3): a step that raises a fault changes FAULT and nothing else. That the key sample and
IR too are those before the step is the model's reading (log entry 7). -/
def Obligations.FaultedStepChangesOnlyFault : Prop :=
  ∀ s t : State, s.fault = none → step s = .next t → t.fault ≠ none →
    SameBlock { s with fault := t.fault } t ∧ t.keys = s.keys ∧ t.ir = s.ir ∧ t.beep = false ∧
      t.outcome = some .faulted

/-- R95: every step after cold reset ends in exactly one of the three ways. -/
def Obligations.EveryStepEndsInOneOfThreeWays : Prop :=
  ∀ s : State, s.initialised = true →
    ∃ t, step s = .next t ∧
      ((t.outcome = some .completed ∧ s.fault = none ∧ t.fault = none) ∨
       (t.outcome = some .stalled ∧ SameBlock s t ∧ t.beep = false) ∨
       (t.outcome = some .faulted ∧ s.fault = none ∧ t.fault ≠ none ∧ t.beep = false))

/-- R170, R177: each fault record is raised only under the condition its row gives, and by an instruction its row
names; the framebuffer one only where a sprite bit that is 1 lands off the grid, naming the first such cell (the
mechanism, the bit order and the order of checks are the spec's decisions D1, D3, D9, D11). -/
def Obligations.FaultsAreRaisedOnlyOnTheirConditions : Prop :=
  ∀ (s t : State) (r : FaultRecord), s.fault = none → step s = .next t → t.fault = some r → RaisedBecause s r

/-- R183: the timer update is the last stage of a completed step, on the values the instruction leaves, and no other
step moves a timer. -/
def Obligations.TimersCountCompletedSteps : Prop :=
  ∀ (s t : State), step s = .next t →
    (t.outcome ≠ some .completed → SameTimers s t ∧ t.beep = false) ∧
    ∀ i : Instr, AtInstr s i → t.outcome = some .completed →
      t.dt.toNat = (match i with | .ldDtVx x => s.getV x | _ => s.dt).toNat - 1 ∧
      t.st.toNat = (match i with | .ldStVx x => s.getV x | _ => s.st).toNat - 1 ∧
      (t.beep = true ↔ (match i with | .ldStVx x => s.getV x | _ => s.st) = 1)

/-- R25: the table of PC after a step; there is no other way PC changes. -/
def Obligations.PcChangesOnlyByTheTable : Prop :=
  ∀ s t : State, step s = .next t →
    (t.outcome ≠ some .completed → t.pc = s.pc) ∧
    (t.outcome = some .completed → ∃ i, AtInstr s i ∧ PcAfter i s t)

/-! ### Invariants -/

/-- The model's invariant, from R26, R31, R32, R38: every step keeps it. -/
def Obligations.InvariantKeptByEveryStep : Prop :=
  ∀ s t : State, Inv s → step s = .next t → Inv t

/-- The invariant holds right after cold reset, whatever `MEM_INIT` is (R202). -/
def Obligations.InvariantHoldsAtReset : Prop :=
  Inv State.reset ∧ ∀ m : Memory, m.wf = true → Inv (resetWith m)

/-- The host's other actions (R45) keep the invariant too. -/
def Obligations.InvariantKeptByHostActions : Prop :=
  ∀ (a : HostAction) (s t : State), a ≠ .step → Inv s → act a s = .next t → Inv t

/-- R53 and 95_test_vectors.md part 5, property 8: no step writes memory except one that executes FX33 or FX55, and
those write only their own bytes at I. -/
def Obligations.OnlyStoresWriteMemory : Prop :=
  ∀ s t : State, step s = .next t →
    SameMem s t ∨
    (∃ x, AtInstr s (.ldBVx x) ∧ s.i.toNat + 2 ≤ 0xFFF ∧ SameMemOutside s.i.toNat 3 s t) ∨
    (∃ x, AtInstr s (.ldMemVx x) ∧ s.i.toNat + x.val ≤ 0xFFF ∧ SameMemOutside s.i.toNat (x.val + 1) s t)

/-- R39, R150: a step changes the framebuffer only when it executes 00E0 or DXYN. -/
def Obligations.OnlyClearAndDrawChangeTheScreen : Prop :=
  ∀ s t : State, step s = .next t →
    t.fb = s.fb ∨ AtInstr s .cls ∨ ∃ x y n, AtInstr s (.drwVxVyN x y n)

/-- R32 and 95_test_vectors.md part 5, property 3: SP changes only by 2NNN (+1) and 00EE (−1). -/
def Obligations.StackPointerMovesOnlyByCallAndReturn : Prop :=
  ∀ s t : State, step s = .next t →
    t.sp = s.sp ∨ ((∃ nnn, AtInstr s (.callNnn nnn)) ∧ t.sp.val = s.sp.val + 1) ∨
      (AtInstr s .ret ∧ t.sp.val + 1 = s.sp.val)

/-- R28, R29, R21: a step leaves VF alone unless it executes a flag writer, or an instruction whose named destination
is VF, or FX65 with X = 15. -/
def Obligations.FlagRegisterWrittenOnlyByItsWriters : Prop :=
  ∀ s t : State, step s = .next t →
    t.getV VF = s.getV VF ∨
    ∃ i, AtInstr s i ∧
      ((∃ x y, i = .addVxVy x y ∨ i = .subVxVy x y ∨ i = .shrVx x y ∨ i = .subnVxVy x y ∨ i = .shlVx x y) ∨
       (∃ x, i = .addIVx x) ∨ (∃ x y n, i = .drwVxVyN x y n) ∨
       (∃ nn, i = .ldVxNn VF nn ∨ i = .addVxNn VF nn ∨ i = .rndVxNn VF nn) ∨
       (∃ y, i = .ldVxVy VF y ∨ i = .orVxVy VF y ∨ i = .andVxVy VF y ∨ i = .xorVxVy VF y) ∨
       i = .ldVxDt VF ∨ i = .ldVxK VF ∨ i = .ldVxMem VF)

/-! ### Control transfer (41_flow.md) -/

/-- R102: 1NNN, op 0x1 with every NNN, sets PC to NNN and changes nothing else. -/
def Obligations.JumpSetsPc : Prop :=
  ∀ (nnn : Addr) (s : State),
    decodeWord (wordA 0x1 nnn) = .ok (.jpNnn nnn) ∧
    ∃ t, exec (.jpNnn nnn) s = .next t ∧ Completed t ∧ t.pc.toNat = nnn.toNat ∧
      SameRegsBut [] s t ∧ t.i = s.i ∧ SameMem s t ∧ SameRest s t

/-- R104: BNNN, op 0xB with every NNN, sets PC to NNN + V0 with no wrap and no reduction to 12 bits, and changes
nothing else. -/
def Obligations.JumpPlusV0SetsPc : Prop :=
  ∀ (nnn : Addr) (s : State),
    decodeWord (wordA 0xB nnn) = .ok (.jpV0Nnn nnn) ∧
    ∃ t, exec (.jpV0Nnn nnn) s = .next t ∧ Completed t ∧ t.pc.toNat = nnn.toNat + (s.getV 0).toNat ∧
      SameRegsBut [] s t ∧ t.i = s.i ∧ SameMem s t ∧ SameRest s t

/-- R103 (the stack discipline is the spec's decision D4, log entry 20): 2NNN with SP < 16 stores its own address in
entry SP, adds 1 to SP and sets PC to NNN. -/
def Obligations.CallPushesItsOwnAddress : Prop :=
  ∀ (nnn : Addr) (s : State), s.sp.val < 16 →
    ∃ t, exec (.callNnn nnn) s = .next t ∧ Completed t ∧ t.pc.toNat = nnn.toNat ∧ t.sp.val = s.sp.val + 1 ∧
      (∀ k : Fin 16, t.stack[k] = if k.val = s.sp.val then s.pc else s.stack[k]) ∧
      SameRegsBut [] s t ∧ t.i = s.i ∧ SameMem s t ∧ SameTimers s t ∧ t.fb = s.fb ∧ SameLatches s t ∧ SameInputs s t

/-- R101 (the spec's decision D4, log entry 20): 00EE with SP > 0 subtracts 1 from SP and sets PC to the entry plus 2;
the entry is not erased. -/
def Obligations.ReturnPopsAndAddsTwo : Prop :=
  ∀ (s : State) (k : Fin 16), k.val + 1 = s.sp.val →
    ∃ t, exec .ret s = .next t ∧ Completed t ∧ t.pc = s.stack[k] + 2 ∧ t.sp.val = k.val ∧ t.stack = s.stack ∧
      SameRegsBut [] s t ∧ t.i = s.i ∧ SameMem s t ∧ SameTimers s t ∧ t.fb = s.fb ∧ SameLatches s t ∧ SameInputs s t

/-- R172, R173 (the spec's decisions D1, D4): 2NNN with SP = 16 and 00EE with SP = 0 set FAULT with PC, and change
nothing else. -/
def Obligations.CallAndReturnFaultAtTheirBounds : Prop :=
  (∀ (nnn : Addr) (s : State), s.sp = 16 →
    ∃ t, exec (.callNnn nnn) s = .next t ∧ t.fault = some (.stackOverflow s.pc) ∧
      SameBlock { s with fault := t.fault } t ∧ t.outcome = some .faulted) ∧
  ∀ s : State, s.sp = 0 →
    ∃ t, exec .ret s = .next t ∧ t.fault = some (.stackUnderflow s.pc) ∧
      SameBlock { s with fault := t.fault } t ∧ t.outcome = some .faulted

/-- R101, the source's property: a call followed immediately by a return restores PC to the call's address plus 2 and
SP to its depth before the call. -/
def Obligations.CallThenReturnComesBack : Prop :=
  ∀ (s : State) (nnn : Addr), AtInstr s (.callNnn nnn) → s.sp.val < 16 → nnn.toNat ≤ 0xFFE →
    decode [s.mem.read nnn.toNat, s.mem.read (nnn.toNat + 1)] = .ok (.ret, []) →
    ∃ t, Sys2Proof.core.run 2 s = .next t ∧ t.pc.toNat = s.pc.toNat + 2 ∧ t.sp = s.sp ∧ t.v = s.v ∧ t.i = s.i ∧
      SameMem s t ∧ t.fb = s.fb ∧ t.fault = none

/-! ### Skips (42_skip.md) -/

/-- R111, R112: 3XNN (op 0x3, every X and NN) skips when VX = NN, 4XNN (op 0x4) when it is not; nothing else
changes. -/
def Obligations.SkipOnImmediate : Prop :=
  ∀ (x : Reg) (nn : Byte) (s : State),
    decodeWord (wordI 0x3 x nn) = .ok (.seVxNn x nn) ∧ decodeWord (wordI 0x4 x nn) = .ok (.sneVxNn x nn) ∧
    (∃ t, exec (.seVxNn x nn) s = .next t ∧ Completed t ∧
      t.pc = (if (s.getV x).toNat = nn.toNat then s.pc + 4 else s.pc + 2) ∧
      SameRegsBut [] s t ∧ t.i = s.i ∧ SameMem s t ∧ SameRest s t) ∧
    ∃ t, exec (.sneVxNn x nn) s = .next t ∧ Completed t ∧
      t.pc = (if (s.getV x).toNat = nn.toNat then s.pc + 2 else s.pc + 4) ∧
      SameRegsBut [] s t ∧ t.i = s.i ∧ SameMem s t ∧ SameRest s t

/-- R113, R114: 5XY0 skips when VX = VY, 9XY0 when they differ; nothing else changes. A last digit other than 0 is an
unrecognised word. -/
def Obligations.SkipOnRegisters : Prop :=
  ∀ (x y : Reg) (s : State),
    decodeWord (wordR 0x5 x y 0) = .ok (.seVxVy x y) ∧ decodeWord (wordR 0x9 x y 0) = .ok (.sneVxVy x y) ∧
    (∀ n : BitVec 4, n ≠ 0 → decodeWord (wordR 0x5 x y n) = .error (.unrecognised (wordR 0x5 x y n)) ∧
      decodeWord (wordR 0x9 x y n) = .error (.unrecognised (wordR 0x9 x y n))) ∧
    (∃ t, exec (.seVxVy x y) s = .next t ∧ Completed t ∧
      t.pc = (if (s.getV x).toNat = (s.getV y).toNat then s.pc + 4 else s.pc + 2) ∧
      SameRegsBut [] s t ∧ t.i = s.i ∧ SameMem s t ∧ SameRest s t) ∧
    ∃ t, exec (.sneVxVy x y) s = .next t ∧ Completed t ∧
      t.pc = (if (s.getV x).toNat = (s.getV y).toNat then s.pc + 2 else s.pc + 4) ∧
      SameRegsBut [] s t ∧ t.i = s.i ∧ SameMem s t ∧ SameRest s t

/-! ### Loads and the ALU (43_alu.md) -/

/-- R121, R123: 6XNN (op 0x6) loads NN and 8XY0 (op 0x8, low nibble 0) loads VY into VX; no flag, nothing else. -/
def Obligations.LoadsWriteVx : Prop :=
  (∀ (x : Reg) (nn : Byte) (s : State),
    decodeWord (wordI 0x6 x nn) = .ok (.ldVxNn x nn) ∧
    ∃ t, exec (.ldVxNn x nn) s = .next t ∧ Completed t ∧ t.getV x = nn ∧ t.pc = s.pc + 2 ∧
      SameRegsBut [x] s t ∧ t.i = s.i ∧ SameMem s t ∧ SameRest s t) ∧
  ∀ (x y : Reg) (s : State),
    decodeWord (wordR 0x8 x y 0x0) = .ok (.ldVxVy x y) ∧
    ∃ t, exec (.ldVxVy x y) s = .next t ∧ Completed t ∧ t.getV x = s.getV y ∧ t.pc = s.pc + 2 ∧
      SameRegsBut [x] s t ∧ t.i = s.i ∧ SameMem s t ∧ SameRest s t

/-- R122: 7XNN (op 0x7) adds NN to VX modulo 256, and VF is not changed by the carry. -/
def Obligations.AddImmediateWrapsWithoutFlag : Prop :=
  ∀ (x : Reg) (nn : Byte) (s : State),
    decodeWord (wordI 0x7 x nn) = .ok (.addVxNn x nn) ∧
    ∃ t, exec (.addVxNn x nn) s = .next t ∧ Completed t ∧
      (t.getV x).toNat = ((s.getV x).toNat + nn.toNat) % 256 ∧ t.pc = s.pc + 2 ∧
      SameRegsBut [x] s t ∧ t.i = s.i ∧ SameMem s t ∧ SameRest s t

/-- R124, R125, R126: OR, AND and XOR (op 0x8, low nibbles 1, 2, 3) work bit by bit on all 8 bits, and write no
flag. -/
def Obligations.BitwiseOperationsWorkOnEveryBit : Prop :=
  ∀ (x y : Reg) (s : State),
    decodeWord (wordR 0x8 x y 0x1) = .ok (.orVxVy x y) ∧ decodeWord (wordR 0x8 x y 0x2) = .ok (.andVxVy x y) ∧
    decodeWord (wordR 0x8 x y 0x3) = .ok (.xorVxVy x y) ∧
    (∃ t, exec (.orVxVy x y) s = .next t ∧ Completed t ∧
      (∀ k, (t.getV x).getLsbD k = ((s.getV x).getLsbD k || (s.getV y).getLsbD k)) ∧ t.pc = s.pc + 2 ∧
      SameRegsBut [x] s t ∧ t.i = s.i ∧ SameMem s t ∧ SameRest s t) ∧
    (∃ t, exec (.andVxVy x y) s = .next t ∧ Completed t ∧
      (∀ k, (t.getV x).getLsbD k = ((s.getV x).getLsbD k && (s.getV y).getLsbD k)) ∧ t.pc = s.pc + 2 ∧
      SameRegsBut [x] s t ∧ t.i = s.i ∧ SameMem s t ∧ SameRest s t) ∧
    ∃ t, exec (.xorVxVy x y) s = .next t ∧ Completed t ∧
      (∀ k, (t.getV x).getLsbD k = ((s.getV x).getLsbD k != (s.getV y).getLsbD k)) ∧ t.pc = s.pc + 2 ∧
      SameRegsBut [x] s t ∧ t.i = s.i ∧ SameMem s t ∧ SameRest s t

/-- R127: 8XY4 leaves VX + VY modulo 256 and the carry in VF. With X = 15 the flag wins, which is the spec's decision
D5 (log entry 15). -/
def Obligations.AddSetsCarry : Prop :=
  ∀ (x y : Reg) (s : State),
    ∃ t, exec (.addVxVy x y) s = .next t ∧ Completed t ∧
      (t.getV VF).toNat = (if 255 < (s.getV x).toNat + (s.getV y).toNat then 1 else 0) ∧
      (x ≠ VF → (t.getV x).toNat = ((s.getV x).toNat + (s.getV y).toNat) % 256) ∧ t.pc = s.pc + 2 ∧
      SameRegsBut [x, VF] s t ∧ t.i = s.i ∧ SameMem s t ∧ SameRest s t

/-- R128: 8XY5 on borrow writes 0 to VF and leaves VX; else it leaves the exact difference in VX and 1 in VF. With
X = 15 and no borrow the difference wins, which is the spec's decision D5 (log entry 15). -/
def Obligations.SubtractUnlessItBorrows : Prop :=
  ∀ (x y : Reg) (s : State),
    ∃ t, exec (.subVxVy x y) s = .next t ∧ Completed t ∧ t.pc = s.pc + 2 ∧
      (if (s.getV x).toNat < (s.getV y).toNat then (t.getV VF).toNat = 0 ∧ SameRegsBut [VF] s t
       else
        (t.getV x).toNat = (s.getV x).toNat - (s.getV y).toNat ∧ (x ≠ VF → (t.getV VF).toNat = 1) ∧
          SameRegsBut [x, VF] s t) ∧
      t.i = s.i ∧ SameMem s t ∧ SameRest s t

/-- R129, R76: 8XY6 halves VX and leaves the bit shifted out in VF; Y plays no part. With X = 15 the shifted value
wins, which is the spec's decision D5 (log entry 15). -/
def Obligations.ShiftRightByOne : Prop :=
  ∀ (x y : Reg) (s : State),
    (∀ y' : Reg, exec (.shrVx x y') s = exec (.shrVx x y) s) ∧
    ∃ t, exec (.shrVx x y) s = .next t ∧ Completed t ∧ (t.getV x).toNat = (s.getV x).toNat / 2 ∧
      (x ≠ VF → (t.getV VF).toNat = (s.getV x).toNat % 2) ∧ t.pc = s.pc + 2 ∧
      SameRegsBut [x, VF] s t ∧ t.i = s.i ∧ SameMem s t ∧ SameRest s t

/-- R130: 8XY7 leaves VY − VX modulo 256 in VX, and 1 in VF exactly when VX > VY (log entry 21). With X = 15 the
difference wins, which is the spec's decision D5 (log entry 15). -/
def Obligations.ReverseSubtractAlways : Prop :=
  ∀ (x y : Reg) (s : State),
    ∃ t, exec (.subnVxVy x y) s = .next t ∧ Completed t ∧
      (t.getV x).toNat = (256 + (s.getV y).toNat - (s.getV x).toNat) % 256 ∧
      (x ≠ VF → (t.getV VF).toNat = (if (s.getV y).toNat < (s.getV x).toNat then 1 else 0)) ∧ t.pc = s.pc + 2 ∧
      SameRegsBut [x, VF] s t ∧ t.i = s.i ∧ SameMem s t ∧ SameRest s t

/-- R131, R76: 8XYE doubles VX modulo 256 and leaves the bit shifted out in VF; Y plays no part. With X = 15 the
shifted value wins, which is the spec's decision D5 (log entry 15). -/
def Obligations.ShiftLeftByOne : Prop :=
  ∀ (x y : Reg) (s : State),
    (∀ y' : Reg, exec (.shlVx x y') s = exec (.shlVx x y) s) ∧
    ∃ t, exec (.shlVx x y) s = .next t ∧ Completed t ∧ (t.getV x).toNat = ((s.getV x).toNat * 2) % 256 ∧
      (x ≠ VF → (t.getV VF).toNat = (s.getV x).toNat / 128) ∧ t.pc = s.pc + 2 ∧
      SameRegsBut [x, VF] s t ∧ t.i = s.i ∧ SameMem s t ∧ SameRest s t

/-- R134 (`RND` is open, D14, log entry 4): CXNN leaves in VX a byte with no bit that NN lacks, uses one draw, and
every byte can be the draw. -/
def Obligations.RandomByteIsMasked : Prop :=
  ∀ (x : Reg) (nn : Byte) (s : State),
    (∃ t, exec (.rndVxNn x nn) s = .next t ∧ Completed t ∧ t.getV x &&& nn = t.getV x ∧ t.pc = s.pc + 2 ∧
      t.rndInput = s.rndInput.next ∧ t.keyInput = s.keyInput ∧ t.pickInput = s.pickInput ∧
      SameRegsBut [x] s t ∧ t.i = s.i ∧ SameMem s t ∧ SameCalls s t ∧ SameTimers s t ∧ t.fb = s.fb ∧
      SameLatches s t) ∧
    ∀ (r : Byte) (rs : List Byte) (n : Nat),
      ∃ t, exec (.rndVxNn x nn) { s with rndInput := ⟨r :: rs, n⟩ } = .next t ∧ t.getV x = r &&& nn ∧
        t.rndInput = ⟨rs, n + 1⟩

/-! ### The index register and memory (44_index_memory.md) -/

/-- R141, R143: ANNN (op 0xA) loads NNN, FX29 (op 0xF, low byte 0x29) loads VX × 5 with all 8 bits of VX, into I;
nothing else changes. -/
def Obligations.IndexLoads : Prop :=
  (∀ (nnn : Addr) (s : State),
    decodeWord (wordA 0xA nnn) = .ok (.ldINnn nnn) ∧
    ∃ t, exec (.ldINnn nnn) s = .next t ∧ Completed t ∧ t.i.toNat = nnn.toNat ∧ t.pc = s.pc + 2 ∧
      SameRegsBut [] s t ∧ SameMem s t ∧ SameRest s t) ∧
  ∀ (x : Reg) (s : State),
    decodeWord (wordI 0xF x 0x29) = .ok (.ldFVx x) ∧
    ∃ t, exec (.ldFVx x) s = .next t ∧ Completed t ∧ t.i.toNat = (s.getV x).toNat * 5 ∧ t.pc = s.pc + 2 ∧
      SameRegsBut [] s t ∧ SameMem s t ∧ SameRest s t

/-- R142 (sums past 16 bits are the spec's decision D15, log entry 19): FX1E leaves I + VX modulo 65536 in I, and VF
says whether the unbounded sum is above 0xFFF. -/
def Obligations.AddToIndexSetsFlag : Prop :=
  ∀ (x : Reg) (s : State),
    ∃ t, exec (.addIVx x) s = .next t ∧ Completed t ∧
      t.i.toNat = (s.i.toNat + (s.getV x).toNat) % 65536 ∧
      (t.getV VF).toNat = (if 0xFFF < s.i.toNat + (s.getV x).toNat then 1 else 0) ∧ t.pc = s.pc + 2 ∧
      SameRegsBut [VF] s t ∧ SameMem s t ∧ SameRest s t

/-- R144, with I + 2 within memory: FX33 stores the three decimal digits of VX, hundreds first, and no other byte;
their weighted sum is VX and each is at most 9. The canonical memory is the model's invariant. -/
def Obligations.DecimalDigitsAreStored : Prop :=
  ∀ (x : Reg) (s : State), s.mem.wf = true → s.i.toNat + 2 ≤ 0xFFF →
    ∃ t, exec (.ldBVx x) s = .next t ∧ Completed t ∧
      (t.mem.read (blockStart s)).toNat = (s.getV x).toNat / 100 ∧
      (t.mem.read (blockStart s + 1)).toNat = (s.getV x).toNat / 10 % 10 ∧
      (t.mem.read (blockStart s + 2)).toNat = (s.getV x).toNat % 10 ∧
      SameMemOutside (blockStart s) 3 s t ∧ blockStart s = s.i.toNat ∧ t.pc = s.pc + 2 ∧ SameRegsBut [] s t ∧
      t.i = s.i ∧ SameRest s t

/-- R145, with I + X within memory: FX55 stores V0 to VX at ascending addresses from I and no other byte, and adds
X + 1 to I. -/
def Obligations.RegistersAreStored : Prop :=
  ∀ (x : Reg) (s : State), s.mem.wf = true → s.i.toNat + x.val ≤ 0xFFF →
    ∃ t, exec (.ldMemVx x) s = .next t ∧ Completed t ∧
      (∀ r : Reg, r ≤ x → t.mem.read (blockStart s + r.val) = s.getV r) ∧
      SameMemOutside (blockStart s) (x.val + 1) s t ∧ blockStart s = s.i.toNat ∧
      t.i.toNat = s.i.toNat + x.val + 1 ∧ t.pc = s.pc + 2 ∧ SameRegsBut [] s t ∧ SameRest s t

/-- R146, with I + X within memory: FX65 loads V0 to VX from ascending addresses from I, leaves the registers above VX
and all of memory, and adds X + 1 to I. -/
def Obligations.RegistersAreLoaded : Prop :=
  ∀ (x : Reg) (s : State), s.i.toNat + x.val ≤ 0xFFF →
    ∃ t, exec (.ldVxMem x) s = .next t ∧ Completed t ∧
      (∀ r : Reg, r ≤ x → t.getV r = s.mem.read (s.i.toNat + r.val)) ∧
      (∀ r : Reg, x < r → t.getV r = s.getV r) ∧
      t.i.toNat = s.i.toNat + x.val + 1 ∧ t.pc = s.pc + 2 ∧ SameMem s t ∧ SameRest s t

/-- R54, R144 to R146, R174 (the spec's decisions D1, D3, D16): FX33, FX55 and FX65 with their highest address above
0xFFF set FAULT to that address, unreduced, and change nothing else. -/
def Obligations.AccessAboveMemoryFaults : Prop :=
  (∀ (x : Reg) (s : State), 0xFFF < s.i.toNat + 2 →
    ∃ t, exec (.ldBVx x) s = .next t ∧ t.fault = some (.memOutOfRange (s.i.toNat + 2)) ∧
      SameBlock { s with fault := t.fault } t ∧ t.outcome = some .faulted) ∧
  ∀ (x : Reg) (s : State) (i : Instr), i = .ldMemVx x ∨ i = .ldVxMem x → 0xFFF < s.i.toNat + x.val →
    ∃ t, exec i s = .next t ∧ t.fault = some (.memOutOfRange (s.i.toNat + x.val)) ∧
      SameBlock { s with fault := t.fault } t ∧ t.outcome = some .faulted

/-- R145, R146 and 95_test_vectors.md part 5, property 7: what FX55 stored, FX65 with the same X and I brings back,
whatever else has changed in between. -/
def Obligations.StoreThenLoadRestoresTheRegisters : Prop :=
  ∀ (x : Reg) (s t u : State), s.mem.wf = true → s.i.toNat + x.val ≤ 0xFFF → exec (.ldMemVx x) s = .next t →
    u.mem = t.mem → u.i = s.i →
    ∃ w, exec (.ldVxMem x) u = .next w ∧ (∀ r : Reg, r ≤ x → w.getV r = s.getV r) ∧
      ∀ r : Reg, x < r → w.getV r = u.getV r

/-- R62 (which the spec derives): bytes FX55 writes over the next instruction are the word the next step fetches. -/
def Obligations.StoredCodeIsFetchedNext : Prop :=
  ∀ (x : Reg) (s t : State), s.mem.wf = true → AtInstr s (.ldMemVx x) → 1 ≤ x.val → s.pc.toNat + 2 = s.i.toNat →
    s.i.toNat + x.val ≤ 0xFFF → step s = .next t → fetchWord t = .ok (s.getV 0 ++ s.getV 1)

/-! ### The display (45_display.md) -/

/-- R151: 00E0, that word exactly, sets all 2048 cells to 0, whatever they held, and changes nothing else. -/
def Obligations.ClearZeroesTheScreen : Prop :=
  decodeWord 0x00E0 = .ok .cls ∧
  ∀ s : State,
    ∃ t, exec .cls s = .next t ∧ Completed t ∧ (∀ r c : Nat, r < 32 → c < 64 → Framebuffer.cell t.fb r c = false) ∧
      t.pc = s.pc + 2 ∧ SameRegsBut [] s t ∧ t.i = s.i ∧ SameMem s t ∧ SameCalls s t ∧ SameTimers s t ∧
      SameLatches s t ∧ SameInputs s t

/-- R152, R155 (bit order and the written flag are the spec's decisions D9, D10; log entries 16, 17): on the drawn
path, with no 1 bit off the grid, a cell changes exactly when a 1 bit lands on it, and VF is 1 exactly when such a cell
was 1. N = 0 is one of the cases. -/
def Obligations.DrawXorsTheSprite : Prop :=
  ∀ (x y : Reg) (n : Nat) (s : State), DrawReads s x y n → (∀ r c, LitCell s x y n r c → r ≤ 31 ∧ c ≤ 63) →
    ∃ t, exec (.drwVxVyN x y n) s = .next t ∧ Completed t ∧
      (∀ r c : Nat, r < 32 → c < 64 →
        (Framebuffer.cell t.fb r c ≠ Framebuffer.cell s.fb r c ↔ LitCell s x y n r c)) ∧
      ((t.getV VF).toNat = 0 ∨ (t.getV VF).toNat = 1) ∧
      ((t.getV VF).toNat = 1 ↔ ∃ r c, LitCell s x y n r c ∧ Framebuffer.cell s.fb r c = true) ∧
      t.pc = s.pc + 2 ∧ SameRegsBut [VF] s t ∧ t.i = s.i ∧ SameMem s t ∧ SameCalls s t ∧ SameTimers s t ∧
      SameLatches s t ∧ SameInputs s t

/-- R153 (a) (that VF is not written is the spec's decision D10, log entry 17): a start off the grid draws nothing,
checks nothing, and completes. -/
def Obligations.DrawFromOffTheGridDrawsNothing : Prop :=
  ∀ (x y : Reg) (n : Nat) (s : State), 64 ≤ (s.getV x).toNat ∨ 32 ≤ (s.getV y).toNat →
    ∃ t, exec (.drwVxVyN x y n) s = .next t ∧ Completed t ∧ t.pc = s.pc + 2 ∧ SameRegsBut [] s t ∧ t.i = s.i ∧
      SameMem s t ∧ SameRest s t

/-- R154 (the spec's decisions D1, D3, D9, D11): the memory check comes first; then the first 1 bit off the grid, rows
ascending and columns ascending within a row, is the one recorded; nothing but FAULT changes. A sprite with x0 ≤ 56 and
y0 + N ≤ 32 has no such bit. -/
def Obligations.DrawFaultsInOrder : Prop :=
  ∀ (x y : Reg) (n : Nat) (s : State), (s.getV x).toNat < 64 → (s.getV y).toNat < 32 →
    (1 ≤ n → 0xFFF < s.i.toNat + n - 1 →
      ∃ t, exec (.drwVxVyN x y n) s = .next t ∧ t.fault = some (.memOutOfRange (s.i.toNat + n - 1)) ∧
        SameBlock { s with fault := t.fault } t ∧ t.outcome = some .faulted) ∧
    (∀ r c : Nat, (1 ≤ n → s.i.toNat + n - 1 ≤ 0xFFF) → LitCell s x y n r c → (31 < r ∨ 63 < c) →
      (∀ r' c' : Nat, LitCell s x y n r' c' → (31 < r' ∨ 63 < c') → r < r' ∨ (r = r' ∧ c ≤ c')) →
      ∃ t, exec (.drwVxVyN x y n) s = .next t ∧ t.fault = some (.framebufferOutOfRange r c) ∧
        SameBlock { s with fault := t.fault } t ∧ t.outcome = some .faulted) ∧
    ((s.getV x).toNat ≤ 56 → (s.getV y).toNat + n ≤ 32 → ∀ r c : Nat, LitCell s x y n r c → r ≤ 31 ∧ c ≤ 63)

/-- R155 (which the spec derives) and 95_test_vectors.md part 5, property 5: a draw repeated with the same operands
restores the framebuffer, and reports a collision exactly when some cell the sprite touches was 0 before the first. -/
def Obligations.DrawTwiceRestoresTheScreen : Prop :=
  ∀ (x y : Reg) (n : Nat) (s t : State), DrawReads s x y n → exec (.drwVxVyN x y n) s = .next t → Completed t →
    t.getV x = s.getV x → t.getV y = s.getV y →
    ∃ u, exec (.drwVxVyN x y n) t = .next u ∧ Completed u ∧ u.fb = s.fb ∧
      ((u.getV VF).toNat = 1 ↔ ∃ r c, LitCell s x y n r c ∧ Framebuffer.cell s.fb r c = false)

/-! ### Keys and timers (46_keypad_timers.md) -/

/-- R161, R162 (an index above 15 is the spec's decision D12): with VX ≤ 15 EX9E skips when key VX is pressed and EXA1
when it is not; with VX > 15 both set FAULT to VX and change nothing else. -/
def Obligations.KeySkips : Prop :=
  ∀ (x : Reg) (s : State),
    ((s.getV x).toNat ≤ 15 →
      (∃ t, exec (.skpVx x) s = .next t ∧ Completed t ∧
        t.pc = (if s.keys.getLsbD (s.getV x).toNat then s.pc + 4 else s.pc + 2) ∧
        SameRegsBut [] s t ∧ t.i = s.i ∧ SameMem s t ∧ SameRest s t) ∧
      ∃ t, exec (.sknpVx x) s = .next t ∧ Completed t ∧
        t.pc = (if s.keys.getLsbD (s.getV x).toNat then s.pc + 2 else s.pc + 4) ∧
        SameRegsBut [] s t ∧ t.i = s.i ∧ SameMem s t ∧ SameRest s t) ∧
    ∀ i : Instr, i = .skpVx x ∨ i = .sknpVx x → 15 < (s.getV x).toNat →
      ∃ t, exec i s = .next t ∧ t.fault = some (.keyIndexOutOfRange (s.getV x)) ∧
        SameBlock { s with fault := t.fault } t ∧ t.outcome = some .faulted

/-- R163 (which key is open, D13, log entry 5): FX0A with a key down puts the index of a key that is down into VX, the
only one when one is down, and any of them can be the one. -/
def Obligations.KeyWaitReportsAPressedKey : Prop :=
  ∀ (x : Reg) (s : State), s.keys ≠ 0 →
    (∃ t, exec (.ldVxK x) s = .next t ∧ Completed t ∧ (t.getV x).toNat < 16 ∧
      s.keys.getLsbD (t.getV x).toNat = true ∧ t.pc = s.pc + 2 ∧ t.pickInput = s.pickInput.next ∧
      t.keyInput = s.keyInput ∧ t.rndInput = s.rndInput ∧ SameRegsBut [x] s t ∧ t.i = s.i ∧ SameMem s t ∧
      SameCalls s t ∧ SameTimers s t ∧ t.fb = s.fb ∧ SameLatches s t) ∧
    ∀ k : Nat, s.keys.getLsbD k = true →
      ∃ (c : Nat) (t : State), exec (.ldVxK x) { s with pickInput := ⟨[c], 0⟩ } = .next t ∧ (t.getV x).toNat = k

/-- R163, R195: a step that meets FX0A with no key down stalls; nothing changes, the timers stand still, and the block
is still at the FX0A, for as many steps as the host presents no key. -/
def Obligations.KeyWaitStallsWithoutAKey : Prop :=
  ∀ (x : Reg) (s : State) (k : Nat), AtInstr s (.ldVxK x) →
    ∃ t, invoke (k + 1) 0 s = .next t ∧ AtInstr t (.ldVxK x) ∧ SameBlock s t ∧ t.outcome = some .stalled ∧
      t.beep = false

/-- R164: FX07 (op 0xF, low byte 0x07) loads DT as it stood into VX; the timer update of the step then decrements DT. -/
def Obligations.DelayTimerIsRead : Prop :=
  ∀ (x : Reg) (s : State),
    decodeWord (wordI 0xF x 0x07) = .ok (.ldVxDt x) ∧
    ∃ t, exec (.ldVxDt x) s = .next t ∧ Completed t ∧ t.getV x = s.dt ∧ t.pc = s.pc + 2 ∧
      SameRegsBut [x] s t ∧ t.i = s.i ∧ SameMem s t ∧ SameRest s t ∧
      (timerUpdate t).dt.toNat = (s.dt).toNat - 1

/-- R165, R166: FX15 loads VX into DT and FX18 into ST, and the timer update of the step then decrements the new value;
FX18 with VX = 1 beeps in its own step. -/
def Obligations.TimersAreWritten : Prop :=
  ∀ (x : Reg) (s : State),
    (∃ t, exec (.ldDtVx x) s = .next t ∧ Completed t ∧ t.dt = s.getV x ∧ t.st = s.st ∧ t.pc = s.pc + 2 ∧
      (timerUpdate t).dt.toNat = (s.getV x).toNat - 1 ∧
      SameRegsBut [] s t ∧ t.i = s.i ∧ SameMem s t ∧ SameCalls s t ∧ t.fb = s.fb ∧ SameLatches s t ∧
      SameInputs s t) ∧
    ∃ t, exec (.ldStVx x) s = .next t ∧ Completed t ∧ t.st = s.getV x ∧ t.dt = s.dt ∧ t.pc = s.pc + 2 ∧
      (timerUpdate t).st.toNat = (s.getV x).toNat - 1 ∧
      ((timerUpdate t).beep = true ↔ (s.getV x).toNat = 1) ∧
      SameRegsBut [] s t ∧ t.i = s.i ∧ SameMem s t ∧ SameCalls s t ∧ t.fb = s.fb ∧ SameLatches s t ∧
      SameInputs s t
end

