-- ==== Sys2Proof/Laws/Decode.lean ====
section
/-! SUPPORT. The fields of a word built in each format (R71, R72, R84). -/

namespace Sys2Proof

@[simp] theorem fieldOp_wordA (op : BitVec 4) (nnn : Addr) : fieldOp (wordA op nnn) = op := by
  apply BitVec.eq_of_getLsbD_eq
  intro i hi
  simp only [fieldOp, wordA, BitVec.getLsbD_extractLsb', BitVec.getLsbD_append]
  simp [hi]

@[simp] theorem fieldNNN_wordA (op : BitVec 4) (nnn : Addr) : fieldNNN (wordA op nnn) = nnn := by
  apply BitVec.eq_of_getLsbD_eq
  intro i hi
  simp only [fieldNNN, wordA, BitVec.getLsbD_extractLsb', BitVec.getLsbD_append]
  simp [hi]

@[simp] theorem fieldOp_wordI (op : BitVec 4) (x : Reg) (nn : Byte) : fieldOp (wordI op x nn) = op := by
  apply BitVec.eq_of_getLsbD_eq
  intro i hi
  simp only [fieldOp, wordI, BitVec.getLsbD_extractLsb', BitVec.getLsbD_append]
  have h1 : ¬ 12 + i < 8 := by omega
  have h2 : ¬ 12 + i - 8 < 4 := by omega
  have h3 : 12 + i - 8 - 4 = i := by omega
  simp [hi, h1, h2, h3]

@[simp] theorem fieldX_wordI (op : BitVec 4) (x : Reg) (nn : Byte) : fieldX (wordI op x nn) = x := by
  have h : (wordI op x nn).extractLsb' 8 4 = regBits x := by
    apply BitVec.eq_of_getLsbD_eq
    intro i hi
    simp only [wordI, BitVec.getLsbD_extractLsb', BitVec.getLsbD_append]
    simp [hi]
  rw [fieldX, h, regBits]

@[simp] theorem fieldNN_wordI (op : BitVec 4) (x : Reg) (nn : Byte) : fieldNN (wordI op x nn) = nn := by
  apply BitVec.eq_of_getLsbD_eq
  intro i hi
  simp only [fieldNN, wordI, BitVec.getLsbD_extractLsb', BitVec.getLsbD_append]
  simp [hi]

@[simp] theorem fieldOp_wordR (op : BitVec 4) (x y : Reg) (n : BitVec 4) : fieldOp (wordR op x y n) = op := by
  apply BitVec.eq_of_getLsbD_eq
  intro i hi
  simp only [fieldOp, wordR, BitVec.getLsbD_extractLsb', BitVec.getLsbD_append]
  have h1 : ¬ 12 + i < 4 := by omega
  have h2 : ¬ 12 + i - 4 < 4 := by omega
  have h3 : ¬ 12 + i - 4 - 4 < 4 := by omega
  have h4 : 12 + i - 4 - 4 - 4 = i := by omega
  simp [hi, h1, h2, h3, h4]

@[simp] theorem fieldX_wordR (op : BitVec 4) (x y : Reg) (n : BitVec 4) : fieldX (wordR op x y n) = x := by
  have h : (wordR op x y n).extractLsb' 8 4 = regBits x := by
    apply BitVec.eq_of_getLsbD_eq
    intro i hi
    simp only [wordR, BitVec.getLsbD_extractLsb', BitVec.getLsbD_append]
    have h1 : ¬ 8 + i < 4 := by omega
    have h2 : ¬ 8 + i - 4 < 4 := by omega
    have h3 : 8 + i - 4 - 4 = i := by omega
    simp [hi, h1, h2, h3]
  rw [fieldX, h, regBits]

@[simp] theorem fieldY_wordR (op : BitVec 4) (x y : Reg) (n : BitVec 4) : fieldY (wordR op x y n) = y := by
  have h : (wordR op x y n).extractLsb' 4 4 = regBits y := by
    apply BitVec.eq_of_getLsbD_eq
    intro i hi
    simp only [wordR, BitVec.getLsbD_extractLsb', BitVec.getLsbD_append]
    simp [hi]
  rw [fieldY, h, regBits]

@[simp] theorem fieldN_wordR (op : BitVec 4) (x y : Reg) (n : BitVec 4) : fieldN (wordR op x y n) = n := by
  apply BitVec.eq_of_getLsbD_eq
  intro i hi
  simp only [fieldN, wordR, BitVec.getLsbD_extractLsb', BitVec.getLsbD_append]
  simp [hi]

/-- The two bytes of a word, high byte first, give the word back (R50, R84). -/
@[simp] theorem bytes_of_word (w : Word) : w.extractLsb' 8 8 ++ w.extractLsb' 0 8 = w := by
  apply BitVec.eq_of_getLsbD_eq
  intro i hi
  simp only [BitVec.getLsbD_append, BitVec.getLsbD_extractLsb']
  by_cases h : i < 8
  · simp [h]
  · have h1 : 8 + (i - 8) = i := by omega
    have h2 : i - 8 < 8 := by omega
    simp [h, h1, h2]

/-- The decoder on bytes is the decoder on the word they hold. -/
theorem decode_wordBytes (w : Word) (rest : List Byte) :
    decode (wordBytes w ++ rest) = match decodeWord w with | .ok i => .ok (i, rest) | .error r => .error r := by
  cases h : decodeWord w <;> simp [wordBytes, decode, h]

end Sys2Proof
end

