-- ==== Sys2Proof/Laws/Framebuffer.lean ====
section
/-! SUPPORT. The framebuffer: what a flip and a clear do to each cell, and which cells a sprite lands on. -/

namespace Sys2Proof.Machine

theorem cell_flip (f : Framebuffer) (r c r' c' : Nat) :
    (Framebuffer.flip f r c).cell r' c' =
      if r = r' ∧ c = c' ∧ r < 32 ∧ c < 64 then !Framebuffer.cell f r' c' else Framebuffer.cell f r' c' := by
  unfold Framebuffer.flip
  split
  · rename_i h
    unfold Framebuffer.cell
    by_cases hb : r' < 32 ∧ c' < 64
    · rw [dif_pos hb, dif_pos hb]
      by_cases hr : r = r'
      · subst hr
        by_cases hc : c = c'
        · subst hc
          simp [h.1, h.2]
        · simp [hc]
      · simp [hr]
    · rw [dif_neg hb, dif_neg hb]
      have : ¬ (r = r' ∧ c = c' ∧ r < 32 ∧ c < 64) := by
        rintro ⟨rfl, rfl, h1, h2⟩
        exact hb ⟨h1, h2⟩
      rw [if_neg this]
  · rename_i h
    have : ¬ (r = r' ∧ c = c' ∧ r < 32 ∧ c < 64) := fun e => h ⟨e.2.2.1, e.2.2.2⟩
    rw [if_neg this]

@[simp] theorem cell_clear (r c : Nat) : Framebuffer.clear.cell r c = false := by
  unfold Framebuffer.cell Framebuffer.clear
  split <;> simp

/-- Two framebuffers whose 2048 cells agree are equal. -/
theorem framebuffer_ext {f g : Framebuffer}
    (h : ∀ r c, r < 32 → c < 64 → Framebuffer.cell f r c = Framebuffer.cell g r c) : f = g := by
  apply Vector.ext
  intro r hr
  apply Vector.ext
  intro c hc
  have := h r c hr hc
  simpa [Framebuffer.cell, hr, hc] using this

/-- The cells of one sprite byte: the row, and column `x0 + c` for each bit `7 - c` that is 1. -/
theorem mem_rowCells {x0 row : Nat} {b : Byte} {p : Nat × Nat} :
    p ∈ rowCells x0 row b ↔ p.1 = row ∧ x0 ≤ p.2 ∧ p.2 < x0 + 8 ∧ b.getLsbD (7 - (p.2 - x0)) = true := by
  obtain ⟨r, c⟩ := p
  simp only [rowCells, List.mem_map, List.mem_filter, List.mem_range, Prod.mk.injEq]
  constructor
  · rintro ⟨k, ⟨hk, hb⟩, rfl, rfl⟩
    refine ⟨rfl, by omega, by omega, ?_⟩
    rwa [Nat.add_sub_cancel_left]
  · rintro ⟨rfl, h1, h2, hb⟩
    exact ⟨c - x0, ⟨by omega, hb⟩, rfl, by omega⟩

/-- The cells of a sprite: row `row + k` of sprite byte k, and column `x0 + c` for each bit `7 - c` that is 1. -/
theorem mem_spriteCells {x0 row : Nat} {bs : List Byte} {p : Nat × Nat} :
    p ∈ spriteCells x0 row bs ↔
      row ≤ p.1 ∧ ∃ h : p.1 - row < bs.length,
        x0 ≤ p.2 ∧ p.2 < x0 + 8 ∧ (bs[p.1 - row]).getLsbD (7 - (p.2 - x0)) = true := by
  induction bs generalizing row with
  | nil => simp [spriteCells]
  | cons b bs ih =>
    rw [spriteCells, List.mem_append, mem_rowCells, ih]
    rcases Nat.lt_trichotomy p.1 row with hlt | heq | hgt
    · constructor
      · rintro (⟨h, -⟩ | ⟨h, -⟩) <;> omega
      · rintro ⟨h, -⟩
        omega
    · constructor
      · rintro (⟨-, h⟩ | ⟨h, -⟩)
        · refine ⟨by omega, by simp [heq], ?_⟩
          simpa [heq] using h
        · omega
      · rintro ⟨-, _, h⟩
        exact .inl ⟨heq, by simpa [heq] using h⟩
    · obtain ⟨k, hk⟩ : ∃ k, p.1 = row + (k + 1) := ⟨p.1 - row - 1, by omega⟩
      have e1 : p.1 - row = k + 1 := by omega
      have e2 : p.1 - (row + 1) = k := by omega
      constructor
      · rintro (⟨h, -⟩ | ⟨-, hl, h⟩)
        · omega
        · refine ⟨by omega, by simp only [List.length_cons]; omega, ?_⟩
          simpa only [e1, e2, List.getElem_cons_succ] using h
      · rintro ⟨-, hl, h⟩
        simp only [List.length_cons] at hl
        exact .inr ⟨by omega, by omega, by simpa only [e1, e2, List.getElem_cons_succ] using h⟩

/-- The cells of a sprite come rows ascending and columns ascending within a row (R152). -/
theorem spriteCells_sorted (x0 row : Nat) (bs : List Byte) :
    (spriteCells x0 row bs).Pairwise fun p q => p.1 < q.1 ∨ (p.1 = q.1 ∧ p.2 ≤ q.2) := by
  induction bs generalizing row with
  | nil => exact List.Pairwise.nil
  | cons b bs ih =>
    refine List.pairwise_append.2 ⟨?_, ih _, ?_⟩
    · refine List.pairwise_map.2 (List.Pairwise.imp ?_ (List.pairwise_lt_range.filter _))
      exact fun {a b} h => .inr ⟨rfl, Nat.add_le_add_left (Nat.le_of_lt h) x0⟩
    · intro p hp q hq
      have h1 := (mem_rowCells.1 hp).1
      have h2 := (mem_spriteCells.1 hq).1
      omega

/-- No sprite bit lands on a cell another one lands on (R155). -/
theorem spriteCells_nodup (x0 row : Nat) (bs : List Byte) : (spriteCells x0 row bs).Nodup := by
  induction bs generalizing row with
  | nil => exact List.nodup_nil
  | cons b bs ih =>
    refine List.nodup_append.2 ⟨?_, ih (row + 1), ?_⟩
    · refine List.Nodup.map ?_ (List.nodup_range.filter _)
      intro c d h
      simpa using h
    · intro p hp q hq hpq
      subst hpq
      have h1 := (mem_rowCells.1 hp).1
      have h2 := (mem_spriteCells.1 hq).1
      omega

/-- XORing distinct cells of the grid: a cell changes exactly when it is one of them (R152, R155). -/
theorem cell_xorCells {cells : List (Nat × Nat)} (hd : cells.Nodup) (hg : ∀ p ∈ cells, offGrid p = false)
    (f : Framebuffer) (r c : Nat) :
    (xorCells f cells).cell r c =
      if (r, c) ∈ cells then !Framebuffer.cell f r c else Framebuffer.cell f r c := by
  induction cells generalizing f with
  | nil => simp [xorCells]
  | cons p ps ih =>
    obtain ⟨hp, hps⟩ := List.nodup_cons.1 hd
    have hgp := hg p (List.mem_cons_self)
    simp only [offGrid, Bool.or_eq_false_iff, decide_eq_false_iff_not] at hgp
    have step : xorCells f (p :: ps) = xorCells (Framebuffer.flip f p.1 p.2) ps := rfl
    rw [step, ih hps (fun q hq => hg q (List.mem_cons_of_mem _ hq)), cell_flip]
    by_cases he : p = (r, c)
    · subst he
      have h1 : r < 32 := by omega
      have h2 : c < 64 := by omega
      simp [hp, h1, h2]
    · have hne : ¬ (p.1 = r ∧ p.2 = c ∧ p.1 < 32 ∧ p.2 < 64) := by
        rintro ⟨h1, h2, -⟩
        exact he (Prod.ext h1 h2)
      have hne' : (r, c) ≠ p := fun e => he e.symm
      simp [hne, hne']

end Sys2Proof.Machine
end

