-- ==== Sys2Proof/Laws/HostPort.lean ====
section
/-! SUPPORT. What cold reset can do, said once. -/

namespace Sys2Proof.Machine

/-- A running block that has been reset is left as it is (R200). -/
theorem coldReset_of_running {s : State} (hi : s.initialised = true) (hf : s.fault = none) : coldReset s = s :=
  if_pos ⟨hi, hf⟩

/-- At power-on and on a halted block every value is written but memory, the keys and the inputs (R181, R201, R202). -/
theorem coldReset_of_acting {s : State} (h : s.initialised = false ∨ s.fault ≠ none) :
    coldReset s =
      { State.reset with
        mem := s.mem, keys := s.keys, keyInput := s.keyInput, rndInput := s.rndInput, pickInput := s.pickInput } := by
  refine if_neg fun ⟨hi, hf⟩ => ?_
  rcases h with h | h
  · simp [h] at hi
  · exact h hf

/-- Either it does nothing to a running block, or it acts. -/
theorem coldReset_cases (s : State) :
    (s.initialised = true ∧ s.fault = none) ∨ s.initialised = false ∨ s.fault ≠ none := by
  cases hi : s.initialised <;> cases hf : s.fault <;> simp

@[simp] theorem coldReset_fault (s : State) : (coldReset s).fault = none := by
  rcases coldReset_cases s with ⟨hi, hf⟩ | h
  · rw [coldReset_of_running hi hf, hf]
  · rw [coldReset_of_acting h]
    rfl

@[simp] theorem coldReset_initialised (s : State) : (coldReset s).initialised = true := by
  rcases coldReset_cases s with ⟨hi, hf⟩ | h
  · rw [coldReset_of_running hi hf, hi]
  · rw [coldReset_of_acting h]
    rfl

@[simp] theorem coldReset_mem (s : State) : (coldReset s).mem = s.mem := by
  unfold coldReset
  split <;> rfl

@[simp] theorem coldReset_keys (s : State) : (coldReset s).keys = s.keys := by
  unfold coldReset
  split <;> rfl

end Sys2Proof.Machine
end

