-- ==== Sys2Proof/Laws/Memory.lean ====
section
/-! SUPPORT. Memory: a read after a write, the block operations, and the canonical form. -/

namespace Sys2Proof.Machine

/-! ### One byte -/

theorem read_cellsFor (a b : Nat) (v : Byte) (rest : Memory) :
    Memory.read (cellsFor a v ++ rest) b =
      if a = b ∧ v ≠ Config.unwrittenByte then v else Memory.read rest b := by
  unfold cellsFor
  by_cases hv : v = 0#8 <;> simp [hv, Memory.read]

/-- A memory whose canonical form starts above `a` lists nothing at `a`. -/
theorem read_of_wfFrom_lt {m : Memory} {lo a : Nat} (h : Memory.wfFrom lo m = true) (ha : a < lo) :
    m.read a = Config.unwrittenByte := by
  induction m generalizing lo with
  | nil => rfl
  | cons p rest ih =>
    obtain ⟨k, v⟩ := p
    simp only [Memory.wfFrom, Bool.and_eq_true, decide_eq_true_eq] at h
    obtain ⟨⟨⟨hlo, -⟩, -⟩, hrest⟩ := h
    have hk : k ≠ a := by omega
    simpa [Memory.read, hk] using ih hrest (by omega)

theorem wfFrom_mono {m : Memory} {lo lo' : Nat} (h : Memory.wfFrom lo m = true) (hl : lo' ≤ lo) :
    Memory.wfFrom lo' m = true := by
  cases m with
  | nil => rfl
  | cons p rest =>
    obtain ⟨k, v⟩ := p
    simp only [Memory.wfFrom, Bool.and_eq_true, decide_eq_true_eq] at h ⊢
    exact ⟨⟨⟨by omega, h.1.1.2⟩, h.1.2⟩, h.2⟩

theorem wfFrom_cellsFor {rest : Memory} {lo a : Nat} {v : Byte} (ha : lo ≤ a) (hb : a ≤ 0xFFF)
    (h : Memory.wfFrom (a + 1) rest = true) : Memory.wfFrom lo (cellsFor a v ++ rest) = true := by
  unfold cellsFor
  split
  · exact wfFrom_mono h (by omega)
  · rename_i hv
    have hv' : v ≠ 0#8 := hv
    simpa [Memory.wfFrom, ha, hb, hv'] using h

/-- A write within memory keeps the canonical form. -/
theorem wfFrom_write {m : Memory} {lo a : Nat} {v : Byte} (ha : lo ≤ a) (hb : a ≤ 0xFFF)
    (h : Memory.wfFrom lo m = true) : Memory.wfFrom lo (m.write a v) = true := by
  induction m generalizing lo with
  | nil => simpa [Memory.write] using wfFrom_cellsFor (rest := []) (v := v) ha hb rfl
  | cons p rest ih =>
    obtain ⟨k, w⟩ := p
    have h' := h
    simp only [Memory.wfFrom, Bool.and_eq_true, decide_eq_true_eq] at h'
    obtain ⟨⟨⟨hlo, hk⟩, hw⟩, hrest⟩ := h'
    unfold Memory.write
    split
    · refine wfFrom_cellsFor ha hb ?_
      simp only [Memory.wfFrom, Bool.and_eq_true, decide_eq_true_eq]
      exact ⟨⟨⟨by omega, hk⟩, hw⟩, hrest⟩
    · split
      · rename_i hak
        subst hak
        exact wfFrom_cellsFor ha hb hrest
      · simp only [Memory.wfFrom, Bool.and_eq_true, decide_eq_true_eq]
        exact ⟨⟨⟨hlo, hk⟩, hw⟩, ih (by omega) hrest⟩

theorem write_wf {m : Memory} {a : Nat} {v : Byte} (ha : a ≤ 0xFFF) (h : m.wf = true) : (m.write a v).wf = true :=
  wfFrom_write (Nat.zero_le a) ha h

theorem read_write_other {m : Memory} {a b : Nat} {v : Byte} (hab : a ≠ b) : (m.write a v).read b = m.read b := by
  induction m with
  | nil => simpa [Memory.write, hab, Memory.read] using read_cellsFor a b v []
  | cons p rest ih =>
    obtain ⟨k, w⟩ := p
    unfold Memory.write
    split
    · simp [read_cellsFor, hab]
    · split
      · rename_i hak
        subst hak
        simp [read_cellsFor, hab, Memory.read]
      · simp [Memory.read, ih]

theorem read_write_same {m : Memory} {lo a : Nat} {v : Byte} (h : Memory.wfFrom lo m = true) :
    (m.write a v).read a = v := by
  have hcells : ∀ rest : Memory, rest.read a = Config.unwrittenByte → Memory.read (cellsFor a v ++ rest) a = v := by
    intro rest hr
    rw [read_cellsFor]
    by_cases hv : v = 0#8 <;> simp [hv, hr]
  induction m generalizing lo with
  | nil => simpa [Memory.write] using hcells [] rfl
  | cons p rest ih =>
    obtain ⟨k, w⟩ := p
    have h' := h
    simp only [Memory.wfFrom, Bool.and_eq_true, decide_eq_true_eq] at h'
    unfold Memory.write
    split
    · rename_i hak
      apply hcells
      have hk : k ≠ a := by omega
      simpa [Memory.read, hk] using read_of_wfFrom_lt h'.2 (by omega : a < k + 1)
    · split
      · rename_i hak
        subst hak
        exact hcells rest (read_of_wfFrom_lt h'.2 (by omega))
      · rename_i hne
        have hk : k ≠ a := fun e => hne e.symm
        simpa [Memory.read, hk] using ih h'.2

/-- Reading one byte after writing one (R55). -/
theorem read_write {m : Memory} {a b : Nat} {v : Byte} (h : m.wf = true) :
    (m.write a v).read b = if a = b then v else m.read b := by
  by_cases hab : a = b
  · subst hab
    simpa using read_write_same h
  · simpa [hab] using read_write_other hab

/-! ### A block of bytes -/

/-- Storing a block within memory keeps the canonical form. -/
theorem storeBytes_wf {m : Memory} {a : Nat} {bs : List Byte} (ha : a + bs.length ≤ 0x1000) (h : m.wf = true) :
    (storeBytes m a bs).wf = true := by
  induction bs generalizing m a with
  | nil => exact h
  | cons b bs ih =>
    simp only [List.length_cons] at ha
    exact ih (by omega) (write_wf (by omega) h)

/-- Outside the block a store changes no byte. -/
theorem read_storeBytes_outside {m : Memory} {a b : Nat} {bs : List Byte} (hb : b < a ∨ a + bs.length ≤ b) :
    (storeBytes m a bs).read b = m.read b := by
  induction bs generalizing m a with
  | nil => rfl
  | cons v bs ih =>
    simp only [List.length_cons] at hb
    rw [storeBytes, ih (by omega), read_write_other (by omega)]

/-- Inside the block byte k is the k-th byte stored. -/
theorem read_storeBytes_inside {m : Memory} {a k : Nat} {bs : List Byte} (hm : m.wf = true)
    (hb : a + bs.length ≤ 0x1000) (hk : k < bs.length) : (storeBytes m a bs).read (a + k) = bs[k] := by
  induction bs generalizing m a k with
  | nil => simp at hk
  | cons v bs ih =>
    simp only [List.length_cons] at hb hk
    cases k with
    | zero =>
      rw [storeBytes, read_storeBytes_outside (by omega)]
      simpa using read_write_same (a := a) (v := v) hm
    | succ k =>
      have := ih (m := m.write a v) (a := a + 1) (k := k) (write_wf (by omega) hm) (by omega) (by omega)
      simpa [storeBytes, Nat.add_assoc, Nat.add_comm 1 k] using this

@[simp] theorem loadBytes_length (m : Memory) (a n : Nat) : (loadBytes m a n).length = n := by
  induction n generalizing a with
  | zero => rfl
  | succ n ih => simp [loadBytes, ih]

theorem getElem_loadBytes {m : Memory} {a n k : Nat} (hk : k < (loadBytes m a n).length) :
    (loadBytes m a n)[k] = m.read (a + k) := by
  induction n generalizing a k with
  | zero => simp at hk
  | succ n ih =>
    cases k with
    | zero => rfl
    | succ k =>
      simp only [loadBytes, List.getElem_cons_succ]
      rw [ih]
      congr 1
      omega

/-! ### The canonical form -/

/-- Two memories in the canonical form that read alike at every address are the same data. -/
theorem eq_of_read_eq {m m' : Memory} {lo : Nat} (h : Memory.wfFrom lo m = true) (h' : Memory.wfFrom lo m' = true)
    (hr : ∀ a, m.read a = m'.read a) : m = m' := by
  induction m generalizing lo m' with
  | nil =>
    cases m' with
    | nil => rfl
    | cons p rest =>
      obtain ⟨k, v⟩ := p
      simp only [Memory.wfFrom, Bool.and_eq_true, decide_eq_true_eq, bne_iff_ne] at h'
      exact absurd (by simpa [Memory.read] using (hr k).symm) h'.1.2
  | cons p rest ih =>
    obtain ⟨k, v⟩ := p
    cases m' with
    | nil =>
      simp only [Memory.wfFrom, Bool.and_eq_true, decide_eq_true_eq, bne_iff_ne] at h
      exact absurd (by simpa [Memory.read] using hr k) h.1.2
    | cons q rest' =>
      obtain ⟨l, w⟩ := q
      simp only [Memory.wfFrom, Bool.and_eq_true, decide_eq_true_eq, bne_iff_ne] at h h'
      have hkl : k = l := by
        rcases Nat.lt_trichotomy k l with hlt | heq | hgt
        · have e := hr k
          have hne : l ≠ k := by omega
          have hz := read_of_wfFrom_lt h'.2 (by omega : k < l + 1)
          simp only [Memory.read, if_true, hne, if_false] at e
          exact absurd (e.trans hz) h.1.2
        · exact heq
        · have e := hr l
          have hne : k ≠ l := by omega
          have hz := read_of_wfFrom_lt h.2 (by omega : l < k + 1)
          simp only [Memory.read, if_true, hne, if_false] at e
          exact absurd (e.symm.trans hz) h'.1.2
      subst hkl
      have hv : v = w := by simpa [Memory.read] using hr k
      subst hv
      refine congrArg _ (ih h.2 h'.2 fun a => ?_)
      by_cases ha : k = a
      · subst ha
        rw [read_of_wfFrom_lt h.2 (by omega), read_of_wfFrom_lt h'.2 (by omega)]
      · simpa [Memory.read, ha] using hr a

theorem reset_memory_wf : State.reset.mem.wf = true := rfl

end Sys2Proof.Machine
end

