-- ==== Sys2Proof/Laws/State.lean ====
section
/-! SUPPORT. One lemma per field per update of the state, so that no later proof unfolds a record update, and what
reading a register gives after each. -/

namespace Sys2Proof.Machine

variable (s : State)

/-! ### `setV` -/

@[simp] theorem setV_v (x : Reg) (b : Byte) : (s.setV x b).v = s.v.set x.val b x.isLt := rfl
@[simp] theorem setV_i (x : Reg) (b : Byte) : (s.setV x b).i = s.i := rfl
@[simp] theorem setV_pc (x : Reg) (b : Byte) : (s.setV x b).pc = s.pc := rfl
@[simp] theorem setV_sp (x : Reg) (b : Byte) : (s.setV x b).sp = s.sp := rfl
@[simp] theorem setV_stack (x : Reg) (b : Byte) : (s.setV x b).stack = s.stack := rfl
@[simp] theorem setV_dt (x : Reg) (b : Byte) : (s.setV x b).dt = s.dt := rfl
@[simp] theorem setV_st (x : Reg) (b : Byte) : (s.setV x b).st = s.st := rfl
@[simp] theorem setV_ir (x : Reg) (b : Byte) : (s.setV x b).ir = s.ir := rfl
@[simp] theorem setV_fault (x : Reg) (b : Byte) : (s.setV x b).fault = s.fault := rfl
@[simp] theorem setV_mem (x : Reg) (b : Byte) : (s.setV x b).mem = s.mem := rfl
@[simp] theorem setV_fb (x : Reg) (b : Byte) : (s.setV x b).fb = s.fb := rfl
@[simp] theorem setV_keys (x : Reg) (b : Byte) : (s.setV x b).keys = s.keys := rfl
@[simp] theorem setV_initialised (x : Reg) (b : Byte) : (s.setV x b).initialised = s.initialised := rfl
@[simp] theorem setV_beep (x : Reg) (b : Byte) : (s.setV x b).beep = s.beep := rfl
@[simp] theorem setV_outcome (x : Reg) (b : Byte) : (s.setV x b).outcome = s.outcome := rfl
@[simp] theorem setV_keyInput (x : Reg) (b : Byte) : (s.setV x b).keyInput = s.keyInput := rfl
@[simp] theorem setV_rndInput (x : Reg) (b : Byte) : (s.setV x b).rndInput = s.rndInput := rfl
@[simp] theorem setV_pickInput (x : Reg) (b : Byte) : (s.setV x b).pickInput = s.pickInput := rfl

/-! ### `setI` -/

@[simp] theorem setI_v (w : Word) : (s.setI w).v = s.v := rfl
@[simp] theorem setI_i (w : Word) : (s.setI w).i = w := rfl
@[simp] theorem setI_pc (w : Word) : (s.setI w).pc = s.pc := rfl
@[simp] theorem setI_sp (w : Word) : (s.setI w).sp = s.sp := rfl
@[simp] theorem setI_stack (w : Word) : (s.setI w).stack = s.stack := rfl
@[simp] theorem setI_dt (w : Word) : (s.setI w).dt = s.dt := rfl
@[simp] theorem setI_st (w : Word) : (s.setI w).st = s.st := rfl
@[simp] theorem setI_ir (w : Word) : (s.setI w).ir = s.ir := rfl
@[simp] theorem setI_fault (w : Word) : (s.setI w).fault = s.fault := rfl
@[simp] theorem setI_mem (w : Word) : (s.setI w).mem = s.mem := rfl
@[simp] theorem setI_fb (w : Word) : (s.setI w).fb = s.fb := rfl
@[simp] theorem setI_keys (w : Word) : (s.setI w).keys = s.keys := rfl
@[simp] theorem setI_initialised (w : Word) : (s.setI w).initialised = s.initialised := rfl
@[simp] theorem setI_beep (w : Word) : (s.setI w).beep = s.beep := rfl
@[simp] theorem setI_outcome (w : Word) : (s.setI w).outcome = s.outcome := rfl
@[simp] theorem setI_keyInput (w : Word) : (s.setI w).keyInput = s.keyInput := rfl
@[simp] theorem setI_rndInput (w : Word) : (s.setI w).rndInput = s.rndInput := rfl
@[simp] theorem setI_pickInput (w : Word) : (s.setI w).pickInput = s.pickInput := rfl
@[simp] theorem setI_getV (w : Word) (y : Reg) : (s.setI w).getV y = s.getV y := rfl

/-! ### `setPc` -/

@[simp] theorem setPc_v (w : Word) : (s.setPc w).v = s.v := rfl
@[simp] theorem setPc_i (w : Word) : (s.setPc w).i = s.i := rfl
@[simp] theorem setPc_pc (w : Word) : (s.setPc w).pc = w := rfl
@[simp] theorem setPc_sp (w : Word) : (s.setPc w).sp = s.sp := rfl
@[simp] theorem setPc_stack (w : Word) : (s.setPc w).stack = s.stack := rfl
@[simp] theorem setPc_dt (w : Word) : (s.setPc w).dt = s.dt := rfl
@[simp] theorem setPc_st (w : Word) : (s.setPc w).st = s.st := rfl
@[simp] theorem setPc_ir (w : Word) : (s.setPc w).ir = s.ir := rfl
@[simp] theorem setPc_fault (w : Word) : (s.setPc w).fault = s.fault := rfl
@[simp] theorem setPc_mem (w : Word) : (s.setPc w).mem = s.mem := rfl
@[simp] theorem setPc_fb (w : Word) : (s.setPc w).fb = s.fb := rfl
@[simp] theorem setPc_keys (w : Word) : (s.setPc w).keys = s.keys := rfl
@[simp] theorem setPc_initialised (w : Word) : (s.setPc w).initialised = s.initialised := rfl
@[simp] theorem setPc_beep (w : Word) : (s.setPc w).beep = s.beep := rfl
@[simp] theorem setPc_outcome (w : Word) : (s.setPc w).outcome = s.outcome := rfl
@[simp] theorem setPc_keyInput (w : Word) : (s.setPc w).keyInput = s.keyInput := rfl
@[simp] theorem setPc_rndInput (w : Word) : (s.setPc w).rndInput = s.rndInput := rfl
@[simp] theorem setPc_pickInput (w : Word) : (s.setPc w).pickInput = s.pickInput := rfl
@[simp] theorem setPc_getV (w : Word) (y : Reg) : (s.setPc w).getV y = s.getV y := rfl

/-! ### `advance` -/

@[simp] theorem advance_v : (advance s).v = s.v := rfl
@[simp] theorem advance_i : (advance s).i = s.i := rfl
@[simp] theorem advance_pc : (advance s).pc = s.pc + 2 := rfl
@[simp] theorem advance_sp : (advance s).sp = s.sp := rfl
@[simp] theorem advance_stack : (advance s).stack = s.stack := rfl
@[simp] theorem advance_dt : (advance s).dt = s.dt := rfl
@[simp] theorem advance_st : (advance s).st = s.st := rfl
@[simp] theorem advance_ir : (advance s).ir = s.ir := rfl
@[simp] theorem advance_fault : (advance s).fault = s.fault := rfl
@[simp] theorem advance_mem : (advance s).mem = s.mem := rfl
@[simp] theorem advance_fb : (advance s).fb = s.fb := rfl
@[simp] theorem advance_keys : (advance s).keys = s.keys := rfl
@[simp] theorem advance_initialised : (advance s).initialised = s.initialised := rfl
@[simp] theorem advance_beep : (advance s).beep = s.beep := rfl
@[simp] theorem advance_outcome : (advance s).outcome = s.outcome := rfl
@[simp] theorem advance_keyInput : (advance s).keyInput = s.keyInput := rfl
@[simp] theorem advance_rndInput : (advance s).rndInput = s.rndInput := rfl
@[simp] theorem advance_pickInput : (advance s).pickInput = s.pickInput := rfl
@[simp] theorem advance_getV (y : Reg) : (advance s).getV y = s.getV y := rfl

/-! ### `skipWhen` -/

@[simp] theorem skipWhen_v (c : Bool) : (skipWhen c s).v = s.v := rfl
@[simp] theorem skipWhen_i (c : Bool) : (skipWhen c s).i = s.i := rfl
@[simp] theorem skipWhen_pc (c : Bool) : (skipWhen c s).pc = if c then s.pc + 4 else s.pc + 2 := rfl
@[simp] theorem skipWhen_sp (c : Bool) : (skipWhen c s).sp = s.sp := rfl
@[simp] theorem skipWhen_stack (c : Bool) : (skipWhen c s).stack = s.stack := rfl
@[simp] theorem skipWhen_dt (c : Bool) : (skipWhen c s).dt = s.dt := rfl
@[simp] theorem skipWhen_st (c : Bool) : (skipWhen c s).st = s.st := rfl
@[simp] theorem skipWhen_ir (c : Bool) : (skipWhen c s).ir = s.ir := rfl
@[simp] theorem skipWhen_fault (c : Bool) : (skipWhen c s).fault = s.fault := rfl
@[simp] theorem skipWhen_mem (c : Bool) : (skipWhen c s).mem = s.mem := rfl
@[simp] theorem skipWhen_fb (c : Bool) : (skipWhen c s).fb = s.fb := rfl
@[simp] theorem skipWhen_keys (c : Bool) : (skipWhen c s).keys = s.keys := rfl
@[simp] theorem skipWhen_initialised (c : Bool) : (skipWhen c s).initialised = s.initialised := rfl
@[simp] theorem skipWhen_beep (c : Bool) : (skipWhen c s).beep = s.beep := rfl
@[simp] theorem skipWhen_outcome (c : Bool) : (skipWhen c s).outcome = s.outcome := rfl
@[simp] theorem skipWhen_keyInput (c : Bool) : (skipWhen c s).keyInput = s.keyInput := rfl
@[simp] theorem skipWhen_rndInput (c : Bool) : (skipWhen c s).rndInput = s.rndInput := rfl
@[simp] theorem skipWhen_pickInput (c : Bool) : (skipWhen c s).pickInput = s.pickInput := rfl
@[simp] theorem skipWhen_getV (c : Bool) (y : Reg) : (skipWhen c s).getV y = s.getV y := rfl

/-! ### `useRandom` -/

@[simp] theorem useRandom_v : (useRandom s).v = s.v := rfl
@[simp] theorem useRandom_i : (useRandom s).i = s.i := rfl
@[simp] theorem useRandom_pc : (useRandom s).pc = s.pc := rfl
@[simp] theorem useRandom_sp : (useRandom s).sp = s.sp := rfl
@[simp] theorem useRandom_stack : (useRandom s).stack = s.stack := rfl
@[simp] theorem useRandom_dt : (useRandom s).dt = s.dt := rfl
@[simp] theorem useRandom_st : (useRandom s).st = s.st := rfl
@[simp] theorem useRandom_ir : (useRandom s).ir = s.ir := rfl
@[simp] theorem useRandom_fault : (useRandom s).fault = s.fault := rfl
@[simp] theorem useRandom_mem : (useRandom s).mem = s.mem := rfl
@[simp] theorem useRandom_fb : (useRandom s).fb = s.fb := rfl
@[simp] theorem useRandom_keys : (useRandom s).keys = s.keys := rfl
@[simp] theorem useRandom_initialised : (useRandom s).initialised = s.initialised := rfl
@[simp] theorem useRandom_beep : (useRandom s).beep = s.beep := rfl
@[simp] theorem useRandom_outcome : (useRandom s).outcome = s.outcome := rfl
@[simp] theorem useRandom_keyInput : (useRandom s).keyInput = s.keyInput := rfl
@[simp] theorem useRandom_rndInput : (useRandom s).rndInput = s.rndInput.next := rfl
@[simp] theorem useRandom_pickInput : (useRandom s).pickInput = s.pickInput := rfl
@[simp] theorem useRandom_getV (y : Reg) : (useRandom s).getV y = s.getV y := rfl

/-! ### `usePick` -/

@[simp] theorem usePick_v : (usePick s).v = s.v := rfl
@[simp] theorem usePick_i : (usePick s).i = s.i := rfl
@[simp] theorem usePick_pc : (usePick s).pc = s.pc := rfl
@[simp] theorem usePick_sp : (usePick s).sp = s.sp := rfl
@[simp] theorem usePick_stack : (usePick s).stack = s.stack := rfl
@[simp] theorem usePick_dt : (usePick s).dt = s.dt := rfl
@[simp] theorem usePick_st : (usePick s).st = s.st := rfl
@[simp] theorem usePick_ir : (usePick s).ir = s.ir := rfl
@[simp] theorem usePick_fault : (usePick s).fault = s.fault := rfl
@[simp] theorem usePick_mem : (usePick s).mem = s.mem := rfl
@[simp] theorem usePick_fb : (usePick s).fb = s.fb := rfl
@[simp] theorem usePick_keys : (usePick s).keys = s.keys := rfl
@[simp] theorem usePick_initialised : (usePick s).initialised = s.initialised := rfl
@[simp] theorem usePick_beep : (usePick s).beep = s.beep := rfl
@[simp] theorem usePick_outcome : (usePick s).outcome = s.outcome := rfl
@[simp] theorem usePick_keyInput : (usePick s).keyInput = s.keyInput := rfl
@[simp] theorem usePick_rndInput : (usePick s).rndInput = s.rndInput := rfl
@[simp] theorem usePick_pickInput : (usePick s).pickInput = s.pickInput.next := rfl
@[simp] theorem usePick_getV (y : Reg) : (usePick s).getV y = s.getV y := rfl

/-! ### `sampleKeys` -/

@[simp] theorem sampleKeys_v : (sampleKeys s).v = s.v := rfl
@[simp] theorem sampleKeys_i : (sampleKeys s).i = s.i := rfl
@[simp] theorem sampleKeys_pc : (sampleKeys s).pc = s.pc := rfl
@[simp] theorem sampleKeys_sp : (sampleKeys s).sp = s.sp := rfl
@[simp] theorem sampleKeys_stack : (sampleKeys s).stack = s.stack := rfl
@[simp] theorem sampleKeys_dt : (sampleKeys s).dt = s.dt := rfl
@[simp] theorem sampleKeys_st : (sampleKeys s).st = s.st := rfl
@[simp] theorem sampleKeys_ir : (sampleKeys s).ir = s.ir := rfl
@[simp] theorem sampleKeys_fault : (sampleKeys s).fault = s.fault := rfl
@[simp] theorem sampleKeys_mem : (sampleKeys s).mem = s.mem := rfl
@[simp] theorem sampleKeys_fb : (sampleKeys s).fb = s.fb := rfl
@[simp] theorem sampleKeys_keys : (sampleKeys s).keys = s.keyInput.value Config.keys := rfl
@[simp] theorem sampleKeys_initialised : (sampleKeys s).initialised = s.initialised := rfl
@[simp] theorem sampleKeys_beep : (sampleKeys s).beep = s.beep := rfl
@[simp] theorem sampleKeys_outcome : (sampleKeys s).outcome = s.outcome := rfl
@[simp] theorem sampleKeys_keyInput : (sampleKeys s).keyInput = s.keyInput.next := rfl
@[simp] theorem sampleKeys_rndInput : (sampleKeys s).rndInput = s.rndInput := rfl
@[simp] theorem sampleKeys_pickInput : (sampleKeys s).pickInput = s.pickInput := rfl
@[simp] theorem sampleKeys_getV (y : Reg) : (sampleKeys s).getV y = s.getV y := rfl

/-! ### `latchWord` -/

@[simp] theorem latchWord_v (w : Word) : (latchWord w s).v = s.v := rfl
@[simp] theorem latchWord_i (w : Word) : (latchWord w s).i = s.i := rfl
@[simp] theorem latchWord_pc (w : Word) : (latchWord w s).pc = s.pc := rfl
@[simp] theorem latchWord_sp (w : Word) : (latchWord w s).sp = s.sp := rfl
@[simp] theorem latchWord_stack (w : Word) : (latchWord w s).stack = s.stack := rfl
@[simp] theorem latchWord_dt (w : Word) : (latchWord w s).dt = s.dt := rfl
@[simp] theorem latchWord_st (w : Word) : (latchWord w s).st = s.st := rfl
@[simp] theorem latchWord_ir (w : Word) : (latchWord w s).ir = w := rfl
@[simp] theorem latchWord_fault (w : Word) : (latchWord w s).fault = s.fault := rfl
@[simp] theorem latchWord_mem (w : Word) : (latchWord w s).mem = s.mem := rfl
@[simp] theorem latchWord_fb (w : Word) : (latchWord w s).fb = s.fb := rfl
@[simp] theorem latchWord_keys (w : Word) : (latchWord w s).keys = s.keys := rfl
@[simp] theorem latchWord_initialised (w : Word) : (latchWord w s).initialised = s.initialised := rfl
@[simp] theorem latchWord_beep (w : Word) : (latchWord w s).beep = s.beep := rfl
@[simp] theorem latchWord_outcome (w : Word) : (latchWord w s).outcome = s.outcome := rfl
@[simp] theorem latchWord_keyInput (w : Word) : (latchWord w s).keyInput = s.keyInput := rfl
@[simp] theorem latchWord_rndInput (w : Word) : (latchWord w s).rndInput = s.rndInput := rfl
@[simp] theorem latchWord_pickInput (w : Word) : (latchWord w s).pickInput = s.pickInput := rfl
@[simp] theorem latchWord_getV (w : Word) (y : Reg) : (latchWord w s).getV y = s.getV y := rfl

/-! ### `complete` -/

@[simp] theorem complete_v : (complete s).v = s.v := rfl
@[simp] theorem complete_i : (complete s).i = s.i := rfl
@[simp] theorem complete_pc : (complete s).pc = s.pc := rfl
@[simp] theorem complete_sp : (complete s).sp = s.sp := rfl
@[simp] theorem complete_stack : (complete s).stack = s.stack := rfl
@[simp] theorem complete_dt : (complete s).dt = s.dt := rfl
@[simp] theorem complete_st : (complete s).st = s.st := rfl
@[simp] theorem complete_ir : (complete s).ir = s.ir := rfl
@[simp] theorem complete_fault : (complete s).fault = s.fault := rfl
@[simp] theorem complete_mem : (complete s).mem = s.mem := rfl
@[simp] theorem complete_fb : (complete s).fb = s.fb := rfl
@[simp] theorem complete_keys : (complete s).keys = s.keys := rfl
@[simp] theorem complete_initialised : (complete s).initialised = s.initialised := rfl
@[simp] theorem complete_beep : (complete s).beep = s.beep := rfl
@[simp] theorem complete_outcome : (complete s).outcome = some .completed := rfl
@[simp] theorem complete_keyInput : (complete s).keyInput = s.keyInput := rfl
@[simp] theorem complete_rndInput : (complete s).rndInput = s.rndInput := rfl
@[simp] theorem complete_pickInput : (complete s).pickInput = s.pickInput := rfl
@[simp] theorem complete_getV (y : Reg) : (complete s).getV y = s.getV y := rfl

/-! ### `stall` -/

@[simp] theorem stall_v : (stall s).v = s.v := rfl
@[simp] theorem stall_i : (stall s).i = s.i := rfl
@[simp] theorem stall_pc : (stall s).pc = s.pc := rfl
@[simp] theorem stall_sp : (stall s).sp = s.sp := rfl
@[simp] theorem stall_stack : (stall s).stack = s.stack := rfl
@[simp] theorem stall_dt : (stall s).dt = s.dt := rfl
@[simp] theorem stall_st : (stall s).st = s.st := rfl
@[simp] theorem stall_ir : (stall s).ir = s.ir := rfl
@[simp] theorem stall_fault : (stall s).fault = s.fault := rfl
@[simp] theorem stall_mem : (stall s).mem = s.mem := rfl
@[simp] theorem stall_fb : (stall s).fb = s.fb := rfl
@[simp] theorem stall_keys : (stall s).keys = s.keys := rfl
@[simp] theorem stall_initialised : (stall s).initialised = s.initialised := rfl
@[simp] theorem stall_beep : (stall s).beep = false := rfl
@[simp] theorem stall_outcome : (stall s).outcome = some .stalled := rfl
@[simp] theorem stall_keyInput : (stall s).keyInput = s.keyInput := rfl
@[simp] theorem stall_rndInput : (stall s).rndInput = s.rndInput := rfl
@[simp] theorem stall_pickInput : (stall s).pickInput = s.pickInput := rfl
@[simp] theorem stall_getV (y : Reg) : (stall s).getV y = s.getV y := rfl

/-! ### `raiseFault` -/

@[simp] theorem raiseFault_v (r : FaultRecord) : (raiseFault r s).v = s.v := rfl
@[simp] theorem raiseFault_i (r : FaultRecord) : (raiseFault r s).i = s.i := rfl
@[simp] theorem raiseFault_pc (r : FaultRecord) : (raiseFault r s).pc = s.pc := rfl
@[simp] theorem raiseFault_sp (r : FaultRecord) : (raiseFault r s).sp = s.sp := rfl
@[simp] theorem raiseFault_stack (r : FaultRecord) : (raiseFault r s).stack = s.stack := rfl
@[simp] theorem raiseFault_dt (r : FaultRecord) : (raiseFault r s).dt = s.dt := rfl
@[simp] theorem raiseFault_st (r : FaultRecord) : (raiseFault r s).st = s.st := rfl
@[simp] theorem raiseFault_ir (r : FaultRecord) : (raiseFault r s).ir = s.ir := rfl
@[simp] theorem raiseFault_fault (r : FaultRecord) : (raiseFault r s).fault = some r := rfl
@[simp] theorem raiseFault_mem (r : FaultRecord) : (raiseFault r s).mem = s.mem := rfl
@[simp] theorem raiseFault_fb (r : FaultRecord) : (raiseFault r s).fb = s.fb := rfl
@[simp] theorem raiseFault_keys (r : FaultRecord) : (raiseFault r s).keys = s.keys := rfl
@[simp] theorem raiseFault_initialised (r : FaultRecord) : (raiseFault r s).initialised = s.initialised := rfl
@[simp] theorem raiseFault_beep (r : FaultRecord) : (raiseFault r s).beep = false := rfl
@[simp] theorem raiseFault_outcome (r : FaultRecord) : (raiseFault r s).outcome = some .faulted := rfl
@[simp] theorem raiseFault_keyInput (r : FaultRecord) : (raiseFault r s).keyInput = s.keyInput := rfl
@[simp] theorem raiseFault_rndInput (r : FaultRecord) : (raiseFault r s).rndInput = s.rndInput := rfl
@[simp] theorem raiseFault_pickInput (r : FaultRecord) : (raiseFault r s).pickInput = s.pickInput := rfl
@[simp] theorem raiseFault_getV (r : FaultRecord) (y : Reg) : (raiseFault r s).getV y = s.getV y := rfl

/-! ### `timerUpdate` -/

@[simp] theorem timerUpdate_v : (timerUpdate s).v = s.v := rfl
@[simp] theorem timerUpdate_i : (timerUpdate s).i = s.i := rfl
@[simp] theorem timerUpdate_pc : (timerUpdate s).pc = s.pc := rfl
@[simp] theorem timerUpdate_sp : (timerUpdate s).sp = s.sp := rfl
@[simp] theorem timerUpdate_stack : (timerUpdate s).stack = s.stack := rfl
@[simp] theorem timerUpdate_dt : (timerUpdate s).dt = countDown s.dt := rfl
@[simp] theorem timerUpdate_st : (timerUpdate s).st = countDown s.st := rfl
@[simp] theorem timerUpdate_ir : (timerUpdate s).ir = s.ir := rfl
@[simp] theorem timerUpdate_fault : (timerUpdate s).fault = s.fault := rfl
@[simp] theorem timerUpdate_mem : (timerUpdate s).mem = s.mem := rfl
@[simp] theorem timerUpdate_fb : (timerUpdate s).fb = s.fb := rfl
@[simp] theorem timerUpdate_keys : (timerUpdate s).keys = s.keys := rfl
@[simp] theorem timerUpdate_initialised : (timerUpdate s).initialised = s.initialised := rfl
@[simp] theorem timerUpdate_beep : (timerUpdate s).beep = decide (s.st = 1) := rfl
@[simp] theorem timerUpdate_outcome : (timerUpdate s).outcome = s.outcome := rfl
@[simp] theorem timerUpdate_keyInput : (timerUpdate s).keyInput = s.keyInput := rfl
@[simp] theorem timerUpdate_rndInput : (timerUpdate s).rndInput = s.rndInput := rfl
@[simp] theorem timerUpdate_pickInput : (timerUpdate s).pickInput = s.pickInput := rfl
@[simp] theorem timerUpdate_getV (y : Reg) : (timerUpdate s).getV y = s.getV y := rfl

/-! ### Reading a register after writing one (R20) -/

theorem getV_setV (x y : Reg) (b : Byte) : (s.setV x b).getV y = if x = y then b else s.getV y := by
  simp only [State.getV, State.setV, Fin.getElem_fin, Vector.getElem_set, Fin.ext_iff]

@[simp] theorem getV_setV_same (x : Reg) (b : Byte) : (s.setV x b).getV x = b := by simp [getV_setV]

theorem getV_setV_other (x y : Reg) (b : Byte) (h : x ≠ y) : (s.setV x b).getV y = s.getV y := by
  simp [getV_setV, h]

end Sys2Proof.Machine
end

