-- ==== Sys2Proof/Laws/Ops.lean ====
section
/-! SUPPORT. One lemma per shared operation, saying once what it can do. -/

namespace Sys2Proof.Machine

/-! ### The call stack -/

theorem pushPc_eq_none {s : State} : pushPc s = none ↔ s.sp = 16 := by
  unfold pushPc
  split
  · rename_i h
    simp only [reduceCtorEq, Fin.ext_iff, false_iff]
    show ¬ s.sp.val = 16
    omega
  · rename_i h
    simp only [Fin.ext_iff, true_iff]
    show s.sp.val = 16
    omega

/-- A push that succeeds: entry SP is PC, SP is one more, and nothing else changes (R103). -/
theorem pushPc_eq_some {s t : State} (h : pushPc s = some t) :
    ∃ hs : s.sp.val < 16,
      t = { s with stack := s.stack.set s.sp.val s.pc hs, sp := ⟨s.sp.val + 1, by omega⟩ } := by
  unfold pushPc at h
  split at h
  · rename_i hs
    exact ⟨hs, (Option.some.inj h).symm⟩
  · cases h

theorem pushPc_of_lt {s : State} (hs : s.sp.val < 16) :
    pushPc s = some { s with stack := s.stack.set s.sp.val s.pc hs, sp := ⟨s.sp.val + 1, by omega⟩ } := by
  simp [pushPc, hs]

theorem popEntry_eq_none {s : State} : popEntry s = none ↔ s.sp = 0 := by
  unfold popEntry
  split
  · rename_i h
    simp only [reduceCtorEq, Fin.ext_iff, false_iff]
    show ¬ s.sp.val = 0
    omega
  · rename_i h
    simp only [Fin.ext_iff, true_iff]
    show s.sp.val = 0
    omega

/-- A pop that succeeds: SP is one less, the entry under it is the one returned, and nothing else changes (R101). -/
theorem popEntry_of_pos {s : State} (hs : 0 < s.sp.val) :
    popEntry s = some ({ s with sp := ⟨s.sp.val - 1, by omega⟩ }, s.stack[s.sp.val - 1]'(by omega)) := by
  simp [popEntry, hs]

/-! ### The inputs -/

@[simp] theorem value_of_given {α : Type} (free : Nat → α) (a : α) (as : List α) (n : Nat) :
    Input.value free ⟨a :: as, n⟩ = a := rfl

@[simp] theorem value_of_none_given {α : Type} (free : Nat → α) (n : Nat) :
    Input.value free ⟨[], n⟩ = free n := rfl

@[simp] theorem next_given {α : Type} (q : Input α) : q.next.given = q.given.tail := rfl

@[simp] theorem next_used {α : Type} (q : Input α) : q.next.used = q.used + 1 := rfl

/-! ### The keys -/

theorem mem_pressedKeys {s : State} {k : Nat} : k ∈ pressedKeys s ↔ k < 16 ∧ keyDown s k = true := by
  simp [pressedKeys]

/-- The key reported is one of the pressed keys (R163). -/
theorem chooseKey_mem (n k : Nat) (ks : List Nat) : chooseKey n (k :: ks) ∈ k :: ks := by
  cases ks with
  | nil => simp [chooseKey]
  | cons l ls =>
    have hlt : n % (ls.length + 2) < (k :: l :: ls).length := Nat.mod_lt _ (by simp)
    rw [chooseKey, List.getD_eq_getElem _ _ hlt]
    exact List.getElem_mem hlt

/-! ### The fetch -/

theorem fetchWord_eq_error {s : State} {r : FaultRecord} :
    fetchWord s = .error r ↔ 0xFFE < s.pc.toNat ∧ r = .fetchOutOfRange s.pc := by
  unfold fetchWord
  split <;> simp_all [eq_comm]

theorem fetchWord_eq_ok {s : State} {w : Word} :
    fetchWord s = .ok w ↔ s.pc.toNat ≤ 0xFFE ∧ w = wordAt s.mem s.pc := by
  unfold fetchWord
  split
  · rename_i h
    simp only [reduceCtorEq, false_iff, not_and]
    omega
  · rename_i h
    simp only [Except.ok.injEq, Nat.not_lt.1 h, true_and, eq_comm]

/-! ### The timers -/

/-- One timer update: one less, and 0 stays 0 (R184, R185). -/
theorem countDown_toNat (b : Byte) : (countDown b).toNat = b.toNat - 1 := by
  unfold countDown
  split
  · rename_i h
    subst h
    rfl
  · rename_i h
    have hb : b.toNat ≠ 0 := fun e => h (BitVec.eq_of_toNat_eq e)
    have := b.isLt
    rw [BitVec.toNat_sub]
    show (2 ^ 8 - 1 + b.toNat) % 2 ^ 8 = b.toNat - 1
    omega

/-! ### The end of a step -/

theorem concludeStep_completed {s u : State} (h : u.outcome = some .completed) : concludeStep s u = timerUpdate u := by
  simp [concludeStep, h]

theorem concludeStep_stalled {s u : State} (h : u.outcome = some .stalled) :
    concludeStep s u =
      { u with ir := if Config.irLatchedOnStall s.keyInput.used then u.ir else s.ir } := by
  simp [concludeStep, h]

theorem concludeStep_faulted {s u : State} (h : u.outcome = some .faulted) :
    concludeStep s u =
      { s with fault := u.fault, beep := false, outcome := some .faulted, keyInput := u.keyInput } := by
  simp [concludeStep, h]

end Sys2Proof.Machine
end

