-- ==== Sys2Proof/Laws/Operands.lean ====
section
/-! SUPPORT. One lemma per operand form and per flag: the bound check, the blocks FX55 and FX65 move, the sprite's
cells, the collision. -/

namespace Sys2Proof.Machine

/-- The bound check: there is a byte, and the highest is above 0xFFF (R54). -/
theorem blockOverruns_eq_true {s : State} {n : Nat} :
    blockOverruns s n = true ↔ 1 ≤ n ∧ 0xFFF < s.i.toNat + n - 1 := by
  rw [blockOverruns, blockLast, blockStart, Bool.and_eq_true, decide_eq_true_iff, decide_eq_true_iff]

theorem blockOverruns_eq_false {s : State} {n : Nat} :
    blockOverruns s n = false ↔ (1 ≤ n → s.i.toNat + n - 1 ≤ 0xFFF) := by
  rw [← Bool.not_eq_true, blockOverruns_eq_true, not_and, Nat.not_lt]

@[simp] theorem firstRegs_length (s : State) (x : Reg) : (firstRegs s x).length = x.val + 1 := by
  simp [firstRegs]

theorem getElem_firstRegs {s : State} {x r : Reg} (h : r.val < (firstRegs s x).length) :
    (firstRegs s x)[r.val] = s.getV r := by
  simp [firstRegs, State.getV]

/-- FX65: registers up to VX come from memory, the others stay (R146). -/
theorem getElem_loadedRegs (s : State) (x r : Reg) :
    (loadedRegs s x)[r] = if r ≤ x then s.mem.read (blockStart s + r.val) else s.getV r := by
  simp [loadedRegs, State.getV]

theorem postIndex_toNat {s : State} {x : Reg} (h : s.i.toNat + x.val ≤ 0xFFF) :
    (postIndex s x).toNat = s.i.toNat + x.val + 1 := by
  simp only [postIndex, blockStart, BitVec.toNat_ofNat]
  omega

/-- The digit formula gives the decimal digits (R144). -/
theorem decimalDigits_toNat (b : Byte) :
    (decimalDigits b).map BitVec.toNat = [b.toNat / 100, b.toNat / 10 % 10, b.toNat % 10] := by
  have := b.isLt
  simp only [decimalDigits, List.map_cons, List.map_nil, BitVec.toNat_ofNat, List.cons.injEq, and_true]
  omega

@[simp] theorem flag_toNat (c : Bool) : (flag c).toNat = if c then 1 else 0 := by cases c <;> rfl

/-- The collision flag is 1 exactly when a touched cell was 1 (R152). -/
theorem collisionFlag_toNat {f : Framebuffer} {cells : List (Nat × Nat)} :
    (collisionFlag f cells).toNat = 1 ↔ ∃ p ∈ cells, Framebuffer.cell f p.1 p.2 = true := by
  rw [collisionFlag, flag_toNat]
  rw [← List.any_eq_true]
  cases cells.any fun p => Framebuffer.cell f p.1 p.2 <;> simp

/-- The cells DXYN computes are the cells its 1 bits land on (R152). -/
theorem mem_drawnCells {s : State} {x y : Reg} {n r c : Nat} :
    (r, c) ∈ spriteCells (s.getV x).toNat (s.getV y).toNat (spriteBytes s n) ↔ LitCell s x y n r c := by
  rw [mem_spriteCells]
  simp only [spriteBytes, loadBytes_length, LitCell]
  constructor
  · rintro ⟨h1, h2, h3, h4, h5⟩
    rw [getElem_loadBytes] at h5
    exact ⟨h1, by omega, h3, h4, h5⟩
  · rintro ⟨h1, h2, h3, h4, h5⟩
    exact ⟨h1, by omega, h3, h4, by rw [getElem_loadBytes]; exact h5⟩

/-- A cell is off the grid on row > 31 or column > 63 (R154). -/
theorem offGrid_eq_true {p : Nat × Nat} : offGrid p = true ↔ 31 < p.1 ∨ 63 < p.2 := by simp [offGrid]

/-- The cell DXYN's framebuffer fault records is the first 1 bit off the grid (R154, R170). -/
theorem firstOffGrid_of_find {s : State} {x y : Reg} {n : Nat} {p : Nat × Nat}
    (h : (spriteCells (s.getV x).toNat (s.getV y).toNat (spriteBytes s n)).find? offGrid = some p) :
    FirstOffGrid s x y n p.1 p.2 := by
  refine ⟨offGrid_eq_true.1 (List.find?_some h), mem_drawnCells.1 (List.mem_of_find?_eq_some h), ?_⟩
  intro r' c' hl ho
  obtain ⟨-, before, later, hsplit, hbefore⟩ := List.find?_eq_some_iff_append.1 h
  have hmem := mem_drawnCells.2 hl
  have hsorted := spriteCells_sorted (s.getV x).toNat (s.getV y).toNat (spriteBytes s n)
  rw [hsplit] at hmem hsorted
  rcases List.mem_append.1 hmem with hb | hb
  · have hoff : offGrid (r', c') = true := offGrid_eq_true.2 ho
    have hnot := hbefore _ hb
    rw [hoff] at hnot
    cases hnot
  · rcases List.mem_cons.1 hb with rfl | hb
    · exact .inr ⟨rfl, Nat.le_refl _⟩
    · exact (List.pairwise_cons.1 (List.pairwise_append.1 hsorted).2.1).1 _ hb

/-- The drawn path with no 1 bit off the grid (R152). -/
theorem drawCells_onGrid {s : State} {cells : List (Nat × Nat)} (h : ∀ p ∈ cells, offGrid p = false) :
    drawCells cells s =
      complete (advance (State.setV { s with fb := xorCells s.fb cells } VF (collisionFlag s.fb cells))) := by
  unfold drawCells
  rw [List.find?_eq_none.2 (by simpa using h)]

/-- There is a pressed key exactly when a flag is set (R163). -/
theorem pressedKeys_eq_nil {s : State} : pressedKeys s = [] ↔ s.keys = 0 := by
  constructor
  · intro h
    apply BitVec.eq_of_getLsbD_eq
    intro k hk
    by_contra hc
    have hd : keyDown s k = true := by simpa [keyDown] using hc
    have : k ∈ pressedKeys s := mem_pressedKeys.2 ⟨hk, hd⟩
    simp [h] at this
  · intro h
    rw [List.eq_nil_iff_forall_not_mem]
    intro k hk
    have := (mem_pressedKeys.1 hk).2
    simp [keyDown, h] at this

end Sys2Proof.Machine
end

