-- ==== Sys2Proof/Laws/PerInstr.lean ====
section
/-! SUPPORT. One fact per instruction, as syntax: the word the encoder writes has the fixed digits of the
instruction's row of the opcode map, `w & mask = match` (30_encoding.md R77). -/

namespace Sys2Proof.Laws.EncodeMatch

/-- The columns match and mask of R77. -/
def row : Instr → Word × Word
  | .cls => (0x00E0, 0xFFFF)
  | .ret => (0x00EE, 0xFFFF)
  | .jpNnn _ => (0x1000, 0xF000)
  | .callNnn _ => (0x2000, 0xF000)
  | .seVxNn _ _ => (0x3000, 0xF000)
  | .sneVxNn _ _ => (0x4000, 0xF000)
  | .seVxVy _ _ => (0x5000, 0xF00F)
  | .ldVxNn _ _ => (0x6000, 0xF000)
  | .addVxNn _ _ => (0x7000, 0xF000)
  | .ldVxVy _ _ => (0x8000, 0xF00F)
  | .orVxVy _ _ => (0x8001, 0xF00F)
  | .andVxVy _ _ => (0x8002, 0xF00F)
  | .xorVxVy _ _ => (0x8003, 0xF00F)
  | .addVxVy _ _ => (0x8004, 0xF00F)
  | .subVxVy _ _ => (0x8005, 0xF00F)
  | .shrVx _ _ => (0x8006, 0xF00F)
  | .subnVxVy _ _ => (0x8007, 0xF00F)
  | .shlVx _ _ => (0x800E, 0xF00F)
  | .sneVxVy _ _ => (0x9000, 0xF00F)
  | .ldINnn _ => (0xA000, 0xF000)
  | .jpV0Nnn _ => (0xB000, 0xF000)
  | .rndVxNn _ _ => (0xC000, 0xF000)
  | .drwVxVyN _ _ _ => (0xD000, 0xF000)
  | .skpVx _ => (0xE09E, 0xF0FF)
  | .sknpVx _ => (0xE0A1, 0xF0FF)
  | .ldVxDt _ => (0xF007, 0xF0FF)
  | .ldVxK _ => (0xF00A, 0xF0FF)
  | .ldDtVx _ => (0xF015, 0xF0FF)
  | .ldStVx _ => (0xF018, 0xF0FF)
  | .addIVx _ => (0xF01E, 0xF0FF)
  | .ldFVx _ => (0xF029, 0xF0FF)
  | .ldBVx _ => (0xF033, 0xF0FF)
  | .ldMemVx _ => (0xF055, 0xF0FF)
  | .ldVxMem _ => (0xF065, 0xF0FF)

/-- The instruction's word selects its own row of the opcode map. -/
def Statement (i : Instr) : Prop := encodeWord i &&& (row i).2 = (row i).1

/-- A word with its high nibble known (formats A, I and D). -/
theorem and_opMask {w : Word} {op : BitVec 4} (h : fieldOp w = op) : w &&& 0xF000 = op ++ 0#12 := by
  subst h
  apply BitVec.eq_of_getLsbD_eq
  intro i hi
  simp only [fieldOp, BitVec.getLsbD_and, BitVec.getLsbD_append, BitVec.getLsbD_extractLsb']
  have hm : ∀ j, j < 16 → (0xF000 : Word).getLsbD j = decide (12 ≤ j) := by decide
  rw [hm i hi]
  by_cases h12 : i < 12
  · simp [h12, Nat.not_le.2 h12]
  · have e : 12 + (i - 12) = i := by omega
    have l : i - 12 < 4 := by omega
    simp [h12, e, l, Nat.not_lt.1 h12]

/-- A word with its high and low nibbles known (format R). -/
theorem and_opLowMask {w : Word} {op n : BitVec 4} (h : fieldOp w = op) (hn : fieldN w = n) :
    w &&& 0xF00F = op ++ 0#8 ++ n := by
  subst h hn
  apply BitVec.eq_of_getLsbD_eq
  intro i hi
  simp only [fieldOp, fieldN, BitVec.getLsbD_and, BitVec.getLsbD_append, BitVec.getLsbD_extractLsb']
  have hm : ∀ j, j < 16 → (0xF00F : Word).getLsbD j = (decide (j < 4) || decide (12 ≤ j)) := by decide
  rw [hm i hi]
  by_cases h4 : i < 4
  · simp [h4]
  · by_cases h12 : i < 12
    · have l : i - 4 < 8 := by omega
      simp [h4, l, Nat.not_le.2 h12]
    · have l : ¬ i - 4 < 8 := by omega
      have e : 12 + (i - 4 - 8) = i := by omega
      have l' : i - 4 - 8 < 4 := by omega
      simp [h4, l, e, l', Nat.not_lt.1 h12]

/-- A word with its high nibble and low byte known (format S). -/
theorem and_opByteMask {w : Word} {op : BitVec 4} {nn : Byte} (h : fieldOp w = op) (hn : fieldNN w = nn) :
    w &&& 0xF0FF = op ++ 0#4 ++ nn := by
  subst h hn
  apply BitVec.eq_of_getLsbD_eq
  intro i hi
  simp only [fieldOp, fieldNN, BitVec.getLsbD_and, BitVec.getLsbD_append, BitVec.getLsbD_extractLsb']
  have hm : ∀ j, j < 16 → (0xF0FF : Word).getLsbD j = (decide (j < 8) || decide (12 ≤ j)) := by decide
  rw [hm i hi]
  by_cases h8 : i < 8
  · simp [h8]
  · by_cases h12 : i < 12
    · have l : i - 8 < 4 := by omega
      simp [h8, l, Nat.not_le.2 h12]
    · have l : ¬ i - 8 < 4 := by omega
      have e : 12 + (i - 8 - 4) = i := by omega
      have l' : i - 8 - 4 < 4 := by omega
      simp [h8, l, e, l', Nat.not_lt.1 h12]

theorem cls : Statement .cls := rfl
theorem ret : Statement .ret := rfl
theorem jpNnn (nnn : Addr) : Statement (.jpNnn nnn) := and_opMask (fieldOp_wordA _ _)
theorem callNnn (nnn : Addr) : Statement (.callNnn nnn) := and_opMask (fieldOp_wordA _ _)
theorem seVxNn (x : Reg) (nn : Byte) : Statement (.seVxNn x nn) := and_opMask (fieldOp_wordI _ _ _)
theorem sneVxNn (x : Reg) (nn : Byte) : Statement (.sneVxNn x nn) := and_opMask (fieldOp_wordI _ _ _)
theorem seVxVy (x y : Reg) : Statement (.seVxVy x y) := and_opLowMask (fieldOp_wordR _ _ _ _) (fieldN_wordR _ _ _ _)
theorem ldVxNn (x : Reg) (nn : Byte) : Statement (.ldVxNn x nn) := and_opMask (fieldOp_wordI _ _ _)
theorem addVxNn (x : Reg) (nn : Byte) : Statement (.addVxNn x nn) := and_opMask (fieldOp_wordI _ _ _)
theorem ldVxVy (x y : Reg) : Statement (.ldVxVy x y) := and_opLowMask (fieldOp_wordR _ _ _ _) (fieldN_wordR _ _ _ _)
theorem orVxVy (x y : Reg) : Statement (.orVxVy x y) := and_opLowMask (fieldOp_wordR _ _ _ _) (fieldN_wordR _ _ _ _)
theorem andVxVy (x y : Reg) : Statement (.andVxVy x y) := and_opLowMask (fieldOp_wordR _ _ _ _) (fieldN_wordR _ _ _ _)
theorem xorVxVy (x y : Reg) : Statement (.xorVxVy x y) := and_opLowMask (fieldOp_wordR _ _ _ _) (fieldN_wordR _ _ _ _)
theorem addVxVy (x y : Reg) : Statement (.addVxVy x y) := and_opLowMask (fieldOp_wordR _ _ _ _) (fieldN_wordR _ _ _ _)
theorem subVxVy (x y : Reg) : Statement (.subVxVy x y) := and_opLowMask (fieldOp_wordR _ _ _ _) (fieldN_wordR _ _ _ _)
theorem shrVx (x y : Reg) : Statement (.shrVx x y) := and_opLowMask (fieldOp_wordR _ _ _ _) (fieldN_wordR _ _ _ _)
theorem subnVxVy (x y : Reg) : Statement (.subnVxVy x y) := and_opLowMask (fieldOp_wordR _ _ _ _) (fieldN_wordR _ _ _ _)
theorem shlVx (x y : Reg) : Statement (.shlVx x y) := and_opLowMask (fieldOp_wordR _ _ _ _) (fieldN_wordR _ _ _ _)
theorem sneVxVy (x y : Reg) : Statement (.sneVxVy x y) := and_opLowMask (fieldOp_wordR _ _ _ _) (fieldN_wordR _ _ _ _)
theorem ldINnn (nnn : Addr) : Statement (.ldINnn nnn) := and_opMask (fieldOp_wordA _ _)
theorem jpV0Nnn (nnn : Addr) : Statement (.jpV0Nnn nnn) := and_opMask (fieldOp_wordA _ _)
theorem rndVxNn (x : Reg) (nn : Byte) : Statement (.rndVxNn x nn) := and_opMask (fieldOp_wordI _ _ _)
theorem drwVxVyN (x y : Reg) (n : Nat) : Statement (.drwVxVyN x y n) := and_opMask (fieldOp_wordR _ _ _ _)
theorem skpVx (x : Reg) : Statement (.skpVx x) := and_opByteMask (fieldOp_wordI _ _ _) (fieldNN_wordI _ _ _)
theorem sknpVx (x : Reg) : Statement (.sknpVx x) := and_opByteMask (fieldOp_wordI _ _ _) (fieldNN_wordI _ _ _)
theorem ldVxDt (x : Reg) : Statement (.ldVxDt x) := and_opByteMask (fieldOp_wordI _ _ _) (fieldNN_wordI _ _ _)
theorem ldVxK (x : Reg) : Statement (.ldVxK x) := and_opByteMask (fieldOp_wordI _ _ _) (fieldNN_wordI _ _ _)
theorem ldDtVx (x : Reg) : Statement (.ldDtVx x) := and_opByteMask (fieldOp_wordI _ _ _) (fieldNN_wordI _ _ _)
theorem ldStVx (x : Reg) : Statement (.ldStVx x) := and_opByteMask (fieldOp_wordI _ _ _) (fieldNN_wordI _ _ _)
theorem addIVx (x : Reg) : Statement (.addIVx x) := and_opByteMask (fieldOp_wordI _ _ _) (fieldNN_wordI _ _ _)
theorem ldFVx (x : Reg) : Statement (.ldFVx x) := and_opByteMask (fieldOp_wordI _ _ _) (fieldNN_wordI _ _ _)
theorem ldBVx (x : Reg) : Statement (.ldBVx x) := and_opByteMask (fieldOp_wordI _ _ _) (fieldNN_wordI _ _ _)
theorem ldMemVx (x : Reg) : Statement (.ldMemVx x) := and_opByteMask (fieldOp_wordI _ _ _) (fieldNN_wordI _ _ _)
theorem ldVxMem (x : Reg) : Statement (.ldVxMem x) := and_opByteMask (fieldOp_wordI _ _ _) (fieldNN_wordI _ _ _)

end Sys2Proof.Laws.EncodeMatch
end

