-- ==== Sys2Proof/Laws/Step.lean ====
section
/-! SUPPORT. What an instruction and a step can do, said once. -/

namespace Sys2Proof.Machine

/-- How an instruction ends (R95): it completes and leaves FAULT alone, or it stalls, or it raises one fault; in the
last two nothing else changes. -/
def EndsWell (s u : State) : Prop :=
  (u.outcome = some .completed ∧ u.fault = s.fault ∧ u.initialised = s.initialised) ∨ u = stall s ∨
    ∃ r, u = raiseFault r s

theorem endsWell_complete {s u : State} (hf : u.fault = s.fault) (hi : u.initialised = s.initialised) :
    EndsWell s (complete u) := .inl ⟨rfl, hf, hi⟩

/-- Every instruction gives a next state, and ends in one of the three ways (R95). -/
theorem exec_endsWell (i : Instr) (s : State) : ∃ u, exec i s = .next u ∧ EndsWell s u := by
  have raised : ∀ (c : Bool) (r : FaultRecord) (u : State), EndsWell s u →
      EndsWell s (if c then raiseFault r s else u) := by
    intro c r u h
    cases c
    · exact h
    · exact .inr (.inr ⟨r, rfl⟩)
  cases i with
  | ret =>
    refine ⟨_, rfl, ?_⟩
    split
    · exact .inr (.inr ⟨_, rfl⟩)
    · rename_i t e h
      have hs : 0 < s.sp.val := by
        refine Nat.pos_of_ne_zero fun h0 => ?_
        rw [popEntry_eq_none.2 (Fin.ext h0)] at h
        cases h
      rw [popEntry_of_pos hs] at h
      obtain ⟨rfl, rfl⟩ := Prod.mk.inj (Option.some.inj h)
      exact endsWell_complete rfl rfl
  | callNnn nnn =>
    refine ⟨_, rfl, ?_⟩
    split
    · exact .inr (.inr ⟨_, rfl⟩)
    · rename_i t h
      obtain ⟨hs, rfl⟩ := pushPc_eq_some h
      exact endsWell_complete rfl rfl
  | subVxVy x y =>
    refine ⟨_, rfl, ?_⟩
    split <;> exact endsWell_complete rfl rfl
  | ldBVx x => exact ⟨_, rfl, raised _ _ _ (endsWell_complete rfl rfl)⟩
  | ldMemVx x => exact ⟨_, rfl, raised _ _ _ (endsWell_complete rfl rfl)⟩
  | ldVxMem x => exact ⟨_, rfl, raised _ _ _ (endsWell_complete rfl rfl)⟩
  | skpVx x =>
    refine ⟨_, rfl, ?_⟩
    split
    · exact .inr (.inr ⟨_, rfl⟩)
    · exact endsWell_complete rfl rfl
  | sknpVx x =>
    refine ⟨_, rfl, ?_⟩
    split
    · exact .inr (.inr ⟨_, rfl⟩)
    · exact endsWell_complete rfl rfl
  | drwVxVyN x y n =>
    refine ⟨_, rfl, ?_⟩
    split
    · exact endsWell_complete rfl rfl
    · refine raised _ _ _ ?_
      unfold drawCells
      split
      · exact .inr (.inr ⟨_, rfl⟩)
      · exact endsWell_complete rfl rfl
  | ldVxK x =>
    refine ⟨_, rfl, ?_⟩
    split
    · exact .inr (.inl rfl)
    · exact endsWell_complete rfl rfl
  | _ => exact ⟨_, rfl, endsWell_complete rfl rfl⟩

/-- Everything a step can do (R90): refuse before cold reset, stall when halted, fault at the fetch, stall on an
unrecognised word, or run the decoded instruction. -/
theorem step_cases (s : State) :
    (s.initialised = false ∧ step s = .refused .notInitialised) ∨
    (s.initialised = true ∧ s.fault ≠ none ∧ step s = .next (stall s)) ∨
    (s.initialised = true ∧ s.fault = none ∧ 0xFFE < s.pc.toNat ∧
      step s = .next (concludeStep s (raiseFault (.fetchOutOfRange s.pc) (sampleKeys s)))) ∨
    (s.initialised = true ∧ s.fault = none ∧ s.pc.toNat ≤ 0xFFE ∧
      (∃ r, decodeWord (wordAt s.mem s.pc) = .error r) ∧
      step s = .next (concludeStep s (stall (executeState s)))) ∨
    (s.initialised = true ∧ s.fault = none ∧ s.pc.toNat ≤ 0xFFE ∧
      ∃ i, decodeWord (wordAt s.mem s.pc) = .ok i ∧ step s = mapNext (concludeStep s) (exec i (executeState s))) := by
  unfold step
  split
  · rename_i h
    exact .inl ⟨h, rfl⟩
  · rename_i r h hf
    exact .inr (.inl ⟨h, by simp [hf], rfl⟩)
  · rename_i h hf
    refine .inr (.inr ?_)
    split
    · rename_i r hw
      obtain ⟨hpc, rfl⟩ := fetchWord_eq_error.1 hw
      exact .inl ⟨h, hf, hpc, rfl⟩
    · rename_i w hw
      obtain ⟨hpc, rfl⟩ := fetchWord_eq_ok.1 hw
      refine .inr ?_
      split
      · rename_i r hd
        exact .inl ⟨h, hf, hpc, ⟨r, hd⟩, rfl⟩
      · rename_i i hd
        exact .inr ⟨h, hf, hpc, i, hd, rfl⟩

end Sys2Proof.Machine
end

