-- ==== Sys2Proof/Laws/Run.lean ====
section
/-! SUPPORT. A step and a run of steps, from what stands at PC. -/

namespace Sys2Proof.Machine

/-- `AtInstr` in terms of the decoded word. -/
theorem atInstr_iff {s : State} {i : Instr} :
    AtInstr s i ↔
      s.initialised = true ∧ s.fault = none ∧ s.pc.toNat ≤ 0xFFE ∧ decodeWord (wordAt s.mem s.pc) = .ok i := by
  unfold AtInstr wordAt decode
  cases h : decodeWord (s.mem.read s.pc.toNat ++ s.mem.read (s.pc.toNat + 1)) <;> simp [h]

/-- At an instruction, the step is that instruction and the end of the step (R90). -/
theorem step_of_atInstr {s u : State} {i : Instr} (ha : AtInstr s i) (he : exec i (executeState s) = .next u) :
    step s = .next (concludeStep s u) := by
  obtain ⟨hi, hf, hp, hd⟩ := atInstr_iff.1 ha
  rcases step_cases s with ⟨h, -⟩ | ⟨-, h, -⟩ | ⟨-, -, h, -⟩ | ⟨-, -, -, ⟨r, h⟩, -⟩ | ⟨-, -, -, j, h, e⟩
  · exact absurd hi (by simp [h])
  · exact absurd hf h
  · omega
  · exact absurd (hd.symm.trans h) (by simp)
  · obtain rfl : i = j := Except.ok.inj (hd.symm.trans h)
    rw [e, he]
    rfl

/-- A run of one step more. -/
theorem run_succ_of_next {k : Nat} {s t : State} (h : step s = .next t) :
    Sys2Proof.core.run (k + 1) s = Sys2Proof.core.run k t := by
  have h' : Sys2Proof.core.step s = .next t := h
  simp only [Host.Core.run, h']

end Sys2Proof.Machine
end

