-- ==== Sys2Proof/Tests/Slice0.lean ====
section
/-! SUPPORT. The model's own tests. Every expected value is the spec's: the words are those of 95_test_vectors.md part
2 (E1 to E40) or written out from the formats of 30_encoding.md R71 and R77, the steps are its vectors T1 to T183 and
H1 to H9, named in each docstring. The last part shows, for every obligation with hypotheses, data that meet them. -/

namespace Sys2Proof.Tests

open Sys2Proof Sys2Proof.Machine

/-! ### WellFormed -/

/-- The one check refuses a row count that has no 4-bit field (R74), and accepts the largest that has. -/
theorem test_wellFormed_row_count :
    Instr.wellFormed (.drwVxVyN 0 0 16) = false ∧ Instr.wellFormed (.drwVxVyN 0 0 15) = true := by decide

/-! ### Decoding: every constructor's word, bit by bit -/

/-- E1, E2, E3, E4, E5. -/
theorem test_decode_zero :
    decodeWord 0b0000000011100000 = .ok .cls ∧ decodeWord 0b0000000011101110 = .ok .ret ∧
    decodeWord 0x00E1 = .error (.unrecognised 0x00E1) ∧ decodeWord 0x0000 = .error (.unrecognised 0x0000) ∧
    decodeWord 0x0123 = .error (.unrecognised 0x0123) := ⟨rfl, rfl, rfl, rfl, rfl⟩

/-- E6, E7, E21, E22: format A. -/
theorem test_decode_address :
    decodeWord 0b0001000011100000 = .ok (.jpNnn 0x0E0) ∧ decodeWord 0b0010111111111111 = .ok (.callNnn 0xFFF) ∧
    decodeWord 0b1010001011110000 = .ok (.ldINnn 0x2F0) ∧ decodeWord 0b1011001100000000 = .ok (.jpV0Nnn 0x300) :=
  ⟨rfl, rfl, rfl, rfl⟩

/-- E8, E9, E12, E13, E23: format I. -/
theorem test_decode_immediate :
    decodeWord 0b0011101000000101 = .ok (.seVxNn 10 0x05) ∧ decodeWord 0b0100111100000000 = .ok (.sneVxNn 15 0x00) ∧
    decodeWord 0b0110110001111111 = .ok (.ldVxNn 12 0x7F) ∧ decodeWord 0b0111000011111111 = .ok (.addVxNn 0 0xFF) ∧
    decodeWord 0b1100001100001111 = .ok (.rndVxNn 3 0x0F) := ⟨rfl, rfl, rfl, rfl, rfl⟩

/-- E10, E11, E19, E20: the skips of format R, whose last digit is 0. -/
theorem test_decode_register_skips :
    decodeWord 0b0101101010110000 = .ok (.seVxVy 10 11) ∧ decodeWord 0x5AB1 = .error (.unrecognised 0x5AB1) ∧
    decodeWord 0b1001000100100000 = .ok (.sneVxVy 1 2) ∧ decodeWord 0x912F = .error (.unrecognised 0x912F) :=
  ⟨rfl, rfl, rfl, rfl⟩

/-- E14, E15, E17, E51, and the other words of op 0x8 written out from R77. -/
theorem test_decode_alu :
    decodeWord 0b1000111011110000 = .ok (.ldVxVy 14 15) ∧ decodeWord 0b1000000100100001 = .ok (.orVxVy 1 2) ∧
    decodeWord 0b1000000100100010 = .ok (.andVxVy 1 2) ∧ decodeWord 0b1000000100100011 = .ok (.xorVxVy 1 2) ∧
    decodeWord 0b1000001110100100 = .ok (.addVxVy 3 10) ∧ decodeWord 0b1000000100100101 = .ok (.subVxVy 1 2) ∧
    decodeWord 0b1000001110100110 = .ok (.shrVx 3 10) ∧ decodeWord 0b1000000100100111 = .ok (.subnVxVy 1 2) ∧
    decodeWord 0b1000001110101110 = .ok (.shlVx 3 10) := ⟨rfl, rfl, rfl, rfl, rfl, rfl, rfl, rfl, rfl⟩

/-- E16, E18, E28, E38, E39, E40: unrecognised words of the sparse families. -/
theorem test_decode_unrecognised :
    decodeWord 0x83A8 = .error (.unrecognised 0x83A8) ∧ decodeWord 0x83AF = .error (.unrecognised 0x83AF) ∧
    decodeWord 0xE39F = .error (.unrecognised 0xE39F) ∧ decodeWord 0xF075 = .error (.unrecognised 0xF075) ∧
    decodeWord 0xF01F = .error (.unrecognised 0xF01F) ∧ decodeWord 0xFFFF = .error (.unrecognised 0xFFFF) :=
  ⟨rfl, rfl, rfl, rfl, rfl, rfl⟩

/-- E24, E25, E26, E27. -/
theorem test_decode_draw_and_keys :
    decodeWord 0b1101000100100101 = .ok (.drwVxVyN 1 2 5) ∧ decodeWord 0b1101000000000000 = .ok (.drwVxVyN 0 0 0) ∧
    decodeWord 0b1110001110011110 = .ok (.skpVx 3) ∧ decodeWord 0b1110001110100001 = .ok (.sknpVx 3) :=
  ⟨rfl, rfl, rfl, rfl⟩

/-- E29 to E37: op 0xF. -/
theorem test_decode_misc :
    decodeWord 0b1111000000000111 = .ok (.ldVxDt 0) ∧ decodeWord 0b1111010100001010 = .ok (.ldVxK 5) ∧
    decodeWord 0b1111001000010101 = .ok (.ldDtVx 2) ∧ decodeWord 0b1111001000011000 = .ok (.ldStVx 2) ∧
    decodeWord 0b1111001100011110 = .ok (.addIVx 3) ∧ decodeWord 0b1111010000101001 = .ok (.ldFVx 4) ∧
    decodeWord 0b1111010100110011 = .ok (.ldBVx 5) ∧ decodeWord 0b1111111101010101 = .ok (.ldMemVx 15) ∧
    decodeWord 0b1111000001100101 = .ok (.ldVxMem 0) := ⟨rfl, rfl, rfl, rfl, rfl, rfl, rfl, rfl, rfl⟩

/-- E7: the high byte stands at the lower address (R50), and the bytes after the word are left over. -/
theorem test_decode_bytes :
    decode [0x2F, 0xFF, 0x12] = .ok (.callNnn 0xFFF, [0x12]) ∧ decode [0x2F] = .error .truncated := ⟨rfl, rfl⟩

/-- E50, E52, E53, E54, E55, E56, E57: encoding. -/
theorem test_encode :
    encodeWord (.addVxVy 3 10) = 0x83A4 ∧ encodeWord (.drwVxVyN 0 1 2) = 0xD012 ∧
    encodeWord (.seVxNn 1 0x00) = 0x3100 ∧ encodeWord (.callNnn 0x20E) = 0x220E ∧
    encodeWord (.ldStVx 2) = 0xF218 ∧ encodeWord (.shrVx 1 0) = 0x8106 ∧ encodeWord .ret = 0x00EE := by decide

/-- A row of the opcode table, its bits numbered as the table numbers them. -/
theorem test_decodeTableWord :
    decodeTableWord 16 0x83A4 = some (.addVxVy 3 10) ∧ decodeTableWord 16 0x83A8 = none := by decide

/-! ### One step from a small state -/

/-- The state after cold reset with all keys up and registers, memory and screen as `f` sets them. -/
def start (f : State → State) : State := presentKeys 1 0 (f State.reset)

/-- The state after one step with the word `w` at PC. -/
def after (w : Nat) (s : State) : Option State :=
  match step (s.withFetchWord 16 w) with
  | .next t => some t
  | .fault _ | .refused _ => none

/-- `mem[a] = b`. -/
def setByte (a : Nat) (b : Byte) (s : State) : State := { s with mem := s.mem.write a b }

/-- `FB[r][c] = 1`. -/
def lit (r c : Nat) (s : State) : State := { s with fb := Framebuffer.flip s.fb r c }

/-- T1, T3: return. -/
theorem test_ret :
    (after 0x00EE (start fun s => { s with pc := 0x300, sp := 1, stack := s.stack.set 0 0x200 })).map
      (fun t => (t.pc, t.sp)) = some (0x202, 0) ∧
    (after 0x00EE (start fun s => { s with pc := 0x400, sp := 16, stack := s.stack.set 15 0x0ABC })).map
      (fun t => (t.pc, t.sp)) = some (0x0ABE, 15) := by decide

/-- T2: return with SP = 0. -/
theorem test_ret_underflow :
    (after 0x00EE (start id)).map (fun t => (t.fault, t.pc, t.outcome)) =
      some (some (.stackUnderflow 0x200), 0x200, some .faulted) := by decide

/-- T5, T8: jump, to any parity. -/
theorem test_jp :
    (after 0x1234 (start id)).map (·.pc) = some 0x234 ∧ (after 0x1001 (start id)).map (·.pc) = some 1 := by decide

/-- T9, T10: call, the 16th entry included. -/
theorem test_call :
    (after 0x2300 (start id)).map (fun t => (t.pc, t.sp, t.stack[0])) = some (0x300, 1, 0x200) ∧
    (after 0x2300 (start fun s => { s with pc := 0x456, sp := 15 })).map (fun t => (t.pc, t.sp, t.stack[15])) =
      some (0x300, 16, 0x456) := by decide

/-- T11: call with SP = 16. -/
theorem test_call_overflow :
    (after 0x2300 (start fun s => { s with sp := 16 })).map (fun t => (t.fault, t.pc, t.sp)) =
      some (some (.stackOverflow 0x200), 0x200, 16) := by decide

/-- T14, T15: jump plus V0, not VX, past memory without a wrap. -/
theorem test_jpV0 :
    (after 0xBFFF (start fun s => s.setV 0 0xFF)).map (·.pc) = some 0x10FE ∧
    (after 0xB300 (start fun s => s.setV 3 0x55)).map (·.pc) = some 0x300 := by decide

/-- T17, T18: a fetch above 0xFFE faults, and one from 0xFFE does not. -/
theorem test_fetch_bound :
    (after 0x0000 (start fun s => { s with pc := 0x10FE })).map (·.fault) = some (some (.fetchOutOfRange 0x10FE)) ∧
    (after 0x6A01 (start fun s => { s with pc := 0xFFE })).map (fun t => (t.getV 10, t.pc, t.fault)) =
      some (0x01, 0x1000, none) := by decide

/-- T20: an unrecognised word changes nothing, the timers included. -/
theorem test_unrecognised_stalls :
    (after 0x0000 (start fun s => { s with dt := 9, st := 1 })).map (fun t => (t.pc, t.dt, t.st, t.beep, t.outcome)) =
      some (0x200, 9, 1, false, some .stalled) := by decide

/-- T26: a halted block does nothing. -/
theorem test_halted_stalls :
    (after 0x6A01 (start fun s => { s with fault := some (.stackUnderflow 0x300), dt := 5 })).map
      (fun t => (t.pc, t.getV 10, t.dt, t.fault)) = some (0x200, 0, 5, some (.stackUnderflow 0x300)) := by decide

/-- R200: a step before cold reset has no meaning. -/
theorem test_step_before_cold_reset :
    after 0x6A01 (start fun s => { s with initialised := false }) = none := by decide

/-- T30, T31. -/
theorem test_seVxNn :
    (after 0x3A05 (start fun s => s.setV 10 0x05)).map (·.pc) = some 0x204 ∧
    (after 0x3A05 (start fun s => s.setV 10 0x06)).map (·.pc) = some 0x202 := by decide

/-- T33, T34. -/
theorem test_sneVxNn :
    (after 0x4A05 (start fun s => s.setV 10 0x05)).map (·.pc) = some 0x202 ∧
    (after 0x4A05 (start fun s => s.setV 10 0x06)).map (·.pc) = some 0x204 := by decide

/-- T35, T36. -/
theorem test_seVxVy :
    (after 0x5120 (start fun s => (s.setV 1 0x33).setV 2 0x33)).map (·.pc) = some 0x204 ∧
    (after 0x5120 (start fun s => (s.setV 1 0x33).setV 2 0x34)).map (·.pc) = some 0x202 := by decide

/-- T38, T39. -/
theorem test_sneVxVy :
    (after 0x9120 (start fun s => (s.setV 1 0x33).setV 2 0x34)).map (·.pc) = some 0x204 ∧
    (after 0x9120 (start fun s => (s.setV 1 0x33).setV 2 0x33)).map (·.pc) = some 0x202 := by decide

/-- T50, T55. -/
theorem test_loads :
    (after 0x6A2C (start id)).map (fun t => (t.getV 10, t.pc)) = some (0x2C, 0x202) ∧
    (after 0x8120 (start fun s => s.setV 2 0x7E)).map (fun t => (t.getV 1, t.getV 2)) = some (0x7E, 0x7E) := by decide

/-- T52: no flag. -/
theorem test_addVxNn :
    (after 0x7A10 (start fun s => s.setV 10 0xF8)).map (fun t => (t.getV 10, t.getV 15)) = some (0x08, 0) := by decide

/-- T56, T57, T58: VF stays 1. -/
theorem test_bitwise :
    (after 0x8121 (start fun s => ((s.setV 1 0x0F).setV 2 0xF0).setV 15 1)).map (fun t => (t.getV 1, t.getV 15)) =
      some (0xFF, 1) ∧
    (after 0x8122 (start fun s => ((s.setV 1 0x3C).setV 2 0x0F).setV 15 1)).map (fun t => (t.getV 1, t.getV 15)) =
      some (0x0C, 1) ∧
    (after 0x8123 (start fun s => ((s.setV 1 0xFF).setV 2 0x0F).setV 15 1)).map (fun t => (t.getV 1, t.getV 15)) =
      some (0xF0, 1) := by decide

/-- T60, T64 (D5: the flag wins). -/
theorem test_addVxVy :
    (after 0x8124 (start fun s => (s.setV 1 0xFF).setV 2 1)).map (fun t => (t.getV 1, t.getV 15)) = some (0x00, 1) ∧
    (after 0x8F24 (start fun s => (s.setV 15 0xF0).setV 2 0x20)).map (·.getV 15) = some 1 := by decide

/-- T67, T68: no subtraction on borrow. -/
theorem test_subVxVy :
    (after 0x8125 (start fun s => (s.setV 1 5).setV 2 3)).map (fun t => (t.getV 1, t.getV 15)) = some (2, 1) ∧
    (after 0x8125 (start fun s => ((s.setV 1 3).setV 2 5).setV 15 1)).map (fun t => (t.getV 1, t.getV 15)) =
      some (3, 0) := by decide

/-- T75, T78 (D5: the shifted value wins). -/
theorem test_shrVx :
    (after 0x81A6 (start fun s => (s.setV 1 5).setV 10 0xFF)).map (fun t => (t.getV 1, t.getV 15)) = some (2, 1) ∧
    (after 0x8F06 (start fun s => s.setV 15 3)).map (·.getV 15) = some 1 := by decide

/-- T80, T81: the flag says VX > VY, so equal operands give 0. -/
theorem test_subnVxVy :
    (after 0x8127 (start fun s => (s.setV 1 5).setV 2 3)).map (fun t => (t.getV 1, t.getV 15)) = some (0xFE, 1) ∧
    (after 0x8127 (start fun s => ((s.setV 1 7).setV 2 7).setV 15 1)).map (fun t => (t.getV 1, t.getV 15)) =
      some (0, 0) := by decide

/-- T88, T89 (D5: the shifted value wins). -/
theorem test_shlVx :
    (after 0x81AE (start fun s => s.setV 1 0xFF)).map (fun t => (t.getV 1, t.getV 15)) = some (0xFE, 1) ∧
    (after 0x8F0E (start fun s => s.setV 15 0x81)).map (·.getV 15) = some 2 := by decide

/-- T90: the draw is 0xA7. -/
theorem test_rndVxNn :
    (after 0xC30F (start fun s => { s with rndInput := ⟨[0xA7], 0⟩ })).map (fun t => (t.getV 3, t.rndInput.used)) =
      some (0x07, 1) := by decide

/-- T100. -/
theorem test_ldINnn : (after 0xA2F0 (start fun s => s.setI 0xFFFF)).map (·.i) = some 0x2F0 := by decide

/-- T102, T105 (the old VF is the addend). -/
theorem test_addIVx :
    (after 0xF31E (start fun s => (s.setI 0xFFF).setV 3 1)).map (fun t => (t.i, t.getV 15)) = some (0x1000, 1) ∧
    (after 0xFF1E (start fun s => (s.setI 0x10).setV 15 5)).map (fun t => (t.i, t.getV 15)) = some (0x15, 0) := by
  decide

/-- T107, T108. -/
theorem test_ldFVx :
    (after 0xF429 (start fun s => s.setV 4 0x10)).map (·.i) = some 0x50 ∧
    (after 0xF429 (start fun s => s.setV 4 0xFF)).map (·.i) = some 0x4FB := by decide

/-- T114, T115: the last block that fits, and the first that does not. -/
theorem test_ldBVx :
    (after 0xF533 (start fun s => (s.setI 0xFFD).setV 5 0xC7)).map
      (fun t => (t.mem.read 0xFFD, t.mem.read 0xFFE, t.mem.read 0xFFF)) = some (1, 9, 9) ∧
    (after 0xF533 (start fun s => (s.setI 0xFFE).setV 5 0xC7)).map (fun t => (t.fault, t.mem.read 0xFFF)) =
      some (some (.memOutOfRange 0x1000), 0) := by decide

/-- T116, T118. -/
theorem test_ldMemVx :
    (after 0xF255 (start fun s => ((((s.setI 0x300).setV 0 0x11).setV 1 0x22).setV 2 0x33).setV 3 0x44)).map
      (fun t => (loadBytes t.mem 0x300 4, t.i)) = some ([0x11, 0x22, 0x33, 0], 0x303) ∧
    (after 0xF155 (start fun s => (s.setI 0xFFF).setV 0 0x5A)).map (fun t => (t.fault, t.mem.read 0xFFF, t.i)) =
      some (some (.memOutOfRange 0x1000), 0, 0xFFF) := by decide

/-- T120, T121. -/
theorem test_ldVxMem :
    (after 0xF165 (start fun s =>
      setByte 0x302 0xEF (setByte 0x301 0xCD (setByte 0x300 0xAB ((s.setI 0x300).setV 2 0x77))))).map
      (fun t => (t.getV 0, t.getV 1, t.getV 2, t.i)) = some (0xAB, 0xCD, 0x77, 0x302) ∧
    (after 0xF065 (start fun s => s.setI 0x1000)).map (·.fault) = some (some (.memOutOfRange 0x1000)) := by decide

/-- T123: code stored over the next instruction. -/
theorem test_stored_code :
    (after 0xF155 (start fun s => ((s.setI 0x202).setV 0 0x12).setV 1 0x02)).map (fun t => wordAt t.mem t.pc) =
      some 0x1202 := by decide

/-- T130: three of the cells. -/
theorem test_cls :
    (after 0x00E0 (start fun s => lit 31 63 (lit 7 9 (lit 0 0 (s.setV 15 1))))).map
      (fun t => (Framebuffer.cell t.fb 0 0, Framebuffer.cell t.fb 31 63, t.getV 15)) = some (false, false, 1) := by
  decide

/-- T136: columns, bit 7 first, XOR and collision. -/
theorem test_drw :
    (after 0xD011 (start fun s => lit 0 4 (lit 0 3 (setByte 0x300 0xF0 (s.setI 0x300))))).map
      (fun t => ((List.range 6).map (Framebuffer.cell t.fb 0), t.getV 15)) =
      some ([true, true, true, false, true, false], 1) := by decide

/-- T141, T145: a 1 bit off the grid; the memory check first. -/
theorem test_drw_faults :
    (after 0xD011 (start fun s => setByte 0x300 0xFF ((s.setI 0x300).setV 0 57))).map
      (fun t => (t.fault, Framebuffer.cell t.fb 0 57)) = some (some (.framebufferOutOfRange 0 64), false) ∧
    (after 0xD012 (start fun s => setByte 0xFFF 0xFF (((s.setI 0xFFF).setV 0 63).setV 1 31))).map (·.fault) =
      some (some (.memOutOfRange 0x1000)) := by decide

/-- T139: a start off the grid, with no memory check. -/
theorem test_drw_off_the_grid :
    (after 0xD011 (start fun s => ((s.setI 0x1000).setV 0 0xFF).setV 15 1)).map (fun t => (t.pc, t.getV 15, t.fault)) =
      some (0x202, 1, none) := by decide

/-- T160, T162. -/
theorem test_skpVx :
    (after 0xE39E (presentKeys 1 0x0080 (start fun s => s.setV 3 7))).map (·.pc) = some 0x204 ∧
    (after 0xE39E (presentKeys 1 0xFFFF (start fun s => s.setV 3 0x10))).map (·.fault) =
      some (some (.keyIndexOutOfRange 0x10)) := by decide

/-- T164, T165. -/
theorem test_sknpVx :
    (after 0xE3A1 (presentKeys 1 0x0080 (start fun s => s.setV 3 7))).map (·.pc) = some 0x202 ∧
    (after 0xE3A1 (start fun s => s.setV 3 0xFF)).map (·.fault) = some (some (.keyIndexOutOfRange 0xFF)) := by decide

/-- T167, T168: waiting freezes the timers. -/
theorem test_ldVxK :
    (after 0xF50A (start fun s => { s with dt := 5, st := 1 })).map (fun t => (t.pc, t.dt, t.st, t.beep)) =
      some (0x200, 5, 1, false) ∧
    (after 0xF50A (presentKeys 1 0x0200 (start fun s => { s with dt := 5 }))).map (fun t => (t.getV 5, t.pc, t.dt)) =
      some (9, 0x202, 4) := by decide

/-- T170: both results are admitted. -/
theorem test_ldVxK_two_keys :
    (after 0xF50A (presentKeys 1 0x0804 (start fun s => { s with pickInput := ⟨[0], 0⟩ }))).map (·.getV 5) = some 2 ∧
    (after 0xF50A (presentKeys 1 0x0804 (start fun s => { s with pickInput := ⟨[1], 0⟩ }))).map (·.getV 5) =
      some 11 := by decide

/-- T172. -/
theorem test_ldVxDt :
    (after 0xF207 (start fun s => { s with dt := 0x10 })).map (fun t => (t.getV 2, t.dt)) = some (0x10, 0x0F) := by
  decide

/-- T175. -/
theorem test_ldDtVx : (after 0xF215 (start fun s => s.setV 2 3)).map (·.dt) = some 2 := by decide

/-- T179, T180. -/
theorem test_ldStVx :
    (after 0xF218 (start fun s => s.setV 2 1)).map (fun t => (t.st, t.beep)) = some (0, true) ∧
    (after 0xF218 (start fun s => { s with st := 5 })).map (fun t => (t.st, t.beep)) = some (0, false) := by decide

/-- T182: the timers stay at 0. -/
theorem test_timers_stay_at_zero :
    (after 0x6000 (start id)).map (fun t => (t.dt, t.st, t.beep)) = some (0, 0, false) := by decide

/-- H2, H5, H6, H9: load, load too early, restart, a second cold reset. -/
theorem test_host_actions :
    loadBytes (loadProgram [0x12, 0x34, 0xAB, 0xCD] State.reset).mem 0x1FF 6 = [0, 0x12, 0x34, 0xAB, 0xCD, 0] ∧
    (loadProgram [0x12] { State.reset with initialised := false }).mem = [] ∧
    (restart { State.reset.setV 0 0x0F with pc := 0x20C, st := 1 }).st = 0 ∧
    (restart { State.reset.setV 0 0x0F with pc := 0x20C, st := 1 }).getV 0 = 0x0F ∧
    (coldReset { State.reset.setV 3 0x55 with pc := 0x300 }).pc = 0x300 := by decide

/-- R181, R201: a cold reset of a halted block. -/
theorem test_cold_reset_of_a_halted_block :
    (coldReset (raiseFault (.stackUnderflow 0x300) ({ State.reset.setV 3 0x55 with pc := 0x300 }))).fault = none ∧
    (coldReset (raiseFault (.stackUnderflow 0x300) ({ State.reset.setV 3 0x55 with pc := 0x300 }))).getV 3 = 0 := by
  decide

/-- R170: the codes. -/
theorem test_fault_codes :
    (FaultRecord.stackOverflow 0).code = 2 ∧ (FaultRecord.keyIndexOutOfRange 0x10).code = 6 := by decide

/-! ### Data that meet the hypotheses of the obligations -/

/-- The state before cold reset. -/
def powerOn : State := { State.reset with initialised := false }

/-- The word `w` at PC in a state as `f` sets it, all keys up. -/
def placed (w : Nat) (f : State → State) : State := (start f).withFetchWord 16 w

theorem witness_ColdResetWritesItsValues : powerOn.initialised = false := rfl

theorem witness_ColdResetActsOnceAndBadLoadsDoNothing :
    State.reset.initialised = true ∧ State.reset.fault = none ∧ powerOn.initialised = false ∧
      3584 < (List.replicate 3585 (0 : Byte)).length :=
  ⟨rfl, rfl, rfl, by rw [List.length_replicate]; decide⟩

/-- The largest image, and its last byte. -/
theorem witness_LoadPlacesTheImage :
    State.reset.initialised = true ∧ State.reset.mem.wf = true ∧
      (List.replicate 3584 (1 : Byte)).length ≤ 3584 ∧ 3583 < (List.replicate 3584 (1 : Byte)).length :=
  ⟨rfl, rfl, by rw [List.length_replicate], by rw [List.length_replicate]; decide⟩

theorem witness_DecodeOfEncodeIsTheInstruction : Instr.wellFormed (.drwVxVyN 15 15 15) = true := by decide

theorem witness_EncodeOfDecodeIsTheWord : decodeWord 0x83A6 = .ok (.shrVx 3 10) := rfl

/-- One state for each of the three ends. -/
theorem witness_StepRunsTheDecodedInstruction :
    (∃ s u, AtInstr s (.ldVxNn 10 0x2C) ∧ exec (.ldVxNn 10 0x2C) (executeState s) = .next u ∧
      u.outcome = some .completed) ∧
    (∃ s u, AtInstr s (.ldVxK 5) ∧ exec (.ldVxK 5) (executeState s) = .next u ∧ u.outcome = some .stalled) ∧
    ∃ s u, AtInstr s .ret ∧ exec .ret (executeState s) = .next u ∧ u.outcome = some .faulted :=
  ⟨⟨placed 0x6A2C id, _, ⟨rfl, rfl, by decide, rfl⟩, rfl, rfl⟩,
   ⟨placed 0xF50A id, _, ⟨rfl, rfl, by decide, rfl⟩, rfl, by decide⟩,
   ⟨placed 0x00EE id, _, ⟨rfl, rfl, by decide, rfl⟩, rfl, by decide⟩⟩

theorem witness_UnrecognisedWordStallsForEver : Hung State.reset := ⟨rfl, rfl, by decide, _, rfl⟩

theorem witness_FetchAboveMemoryFaults :
    ∃ s : State, s.initialised = true ∧ s.fault = none ∧ s.pc.toNat = 0xFFE + 1 :=
  ⟨State.reset.setPc 0xFFF, rfl, rfl, by decide⟩

/-- A halted state. -/
def halted : State := raiseFault (.stackUnderflow 0x300) State.reset

theorem halted_is_halted : Halted halted := by simp [Halted, halted, raiseFault]

theorem witness_HaltedBlockStaysHalted : halted.initialised = true ∧ Halted halted := ⟨rfl, halted_is_halted⟩

theorem witness_RestartAndColdResetLeaveTheHalt : Halted halted := halted_is_halted

theorem witness_FaultedStepChangesOnlyFault :
    ∃ s t : State, s.fault = none ∧ step s = .next t ∧ t.fault ≠ none :=
  ⟨State.reset.setPc 0xFFF, _, rfl, rfl, by decide⟩

theorem witness_EveryStepEndsInOneOfThreeWays : State.reset.initialised = true := rfl

/-- A step that raises each of the six faults. -/
theorem witness_FaultsAreRaisedOnlyOnTheirConditions :
    (after 0x0000 (start fun s => s.setPc 0xFFF)).bind (·.fault) = some (.fetchOutOfRange 0xFFF) ∧
    (after 0x2300 (start fun s => { s with sp := 16 })).bind (·.fault) = some (.stackOverflow 0x200) ∧
    (after 0x00EE (start id)).bind (·.fault) = some (.stackUnderflow 0x200) ∧
    (after 0xF065 (start fun s => s.setI 0x1000)).bind (·.fault) = some (.memOutOfRange 0x1000) ∧
    (after 0xD011 (start fun s => setByte 0x300 0xFF ((s.setI 0x300).setV 0 57))).bind (·.fault) =
      some (.framebufferOutOfRange 0 64) ∧
    (after 0xE3A1 (start fun s => s.setV 3 0x10)).bind (·.fault) = some (.keyIndexOutOfRange 0x10) := by decide

/-- A completed step at an instruction, and one that stalls. -/
theorem witness_TimersCountCompletedSteps :
    (∃ s t, step s = .next t ∧ AtInstr s (.ldStVx 2) ∧ t.outcome = some .completed) ∧
    ∃ s t, step s = .next t ∧ t.outcome ≠ some .completed :=
  ⟨⟨placed 0xF218 (State.setV · 2 1), _, rfl, ⟨rfl, rfl, by decide, rfl⟩, rfl⟩, ⟨State.reset, _, rfl, by decide⟩⟩

theorem witness_PcChangesOnlyByTheTable :
    (∃ s t, step s = .next t ∧ t.outcome = some .completed) ∧ ∃ s t, step s = .next t ∧ t.outcome ≠ some .completed :=
  ⟨⟨placed 0xBFFF (State.setV · 0 0xFF), _, rfl, rfl⟩, ⟨State.reset, _, rfl, by decide⟩⟩

theorem inv_reset : Inv State.reset := ⟨rfl, rfl, by decide, fun k hk => absurd hk (Nat.not_lt_zero _)⟩

theorem witness_InvariantKeptByEveryStep : ∃ s t, Inv s ∧ step s = .next t := ⟨State.reset, _, inv_reset, rfl⟩

theorem witness_InvariantHoldsAtReset : Memory.wf [(0, 1), (0xFFF, 2)] = true := by decide

theorem witness_InvariantKeptByHostActions :
    ∃ t, HostAction.load [0x12, 0x34] ≠ .step ∧ Inv State.reset ∧ act (.load [0x12, 0x34]) State.reset = .next t :=
  ⟨_, by decide, inv_reset, rfl⟩

/-- A step that stores at each of the two boundaries. -/
theorem witness_OnlyStoresWriteMemory :
    (∃ s t, step s = .next t ∧ AtInstr s (.ldBVx 5) ∧ s.i.toNat + 2 = 0xFFF) ∧
    ∃ s t, step s = .next t ∧ AtInstr s (.ldMemVx 15) ∧ s.i.toNat + 15 = 0xFFF :=
  ⟨⟨placed 0xF533 (State.setI · 0xFFD), _, rfl, ⟨rfl, rfl, by decide, rfl⟩, by decide⟩,
   ⟨placed 0xFF55 (State.setI · 0xFF0), _, rfl, ⟨rfl, rfl, by decide, rfl⟩, by decide⟩⟩

theorem witness_OnlyClearAndDrawChangeTheScreen : ∃ s t, step s = .next t ∧ AtInstr s .cls :=
  ⟨placed 0x00E0 id, _, rfl, rfl, rfl, by decide, rfl⟩

theorem witness_StackPointerMovesOnlyByCallAndReturn :
    (∃ s t, step s = .next t ∧ AtInstr s (.callNnn 0x300) ∧ s.sp = 15) ∧
    ∃ s t, step s = .next t ∧ AtInstr s .ret ∧ s.sp = 1 :=
  ⟨⟨placed 0x2300 fun s => { s with sp := 15 }, _, rfl, ⟨rfl, rfl, by decide, rfl⟩, rfl⟩,
   ⟨placed 0x00EE fun s => { s with sp := 1 }, _, rfl, ⟨rfl, rfl, by decide, rfl⟩, rfl⟩⟩

theorem witness_FlagRegisterWrittenOnlyByItsWriters : ∃ s t, step s = .next t ∧ AtInstr s (.addVxVy 1 2) :=
  ⟨placed 0x8124 id, _, rfl, rfl, rfl, by decide, rfl⟩

/-- An empty stack, and one with one entry free. -/
theorem witness_CallPushesItsOwnAddress : State.reset.sp.val < 16 ∧ (15 : Fin 17).val < 16 := by decide

/-- The lowest entry, and the highest. -/
theorem witness_ReturnPopsAndAddsTwo :
    (0 : Fin 16).val + 1 = (1 : Fin 17).val ∧ (15 : Fin 16).val + 1 = ({ State.reset with sp := 16 } : State).sp.val := by
  decide

theorem witness_CallAndReturnFaultAtTheirBounds : ({ State.reset with sp := 16 } : State).sp = 16 ∧ State.reset.sp = 0 := by
  decide

/-- 2300 at 0x200 and 00EE at 0x300. -/
theorem witness_CallThenReturnComesBack :
    ∃ s : State, AtInstr s (.callNnn 0x300) ∧ s.sp.val < 16 ∧ (0x300 : Addr).toNat ≤ 0xFFE ∧
      decode [s.mem.read (0x300 : Addr).toNat, s.mem.read ((0x300 : Addr).toNat + 1)] = .ok (.ret, []) :=
  ⟨placed 0x2300 (setByte 0x301 0xEE), ⟨rfl, rfl, by decide, rfl⟩, by decide, by decide, rfl⟩

theorem witness_SkipOnRegisters : (1 : BitVec 4) ≠ 0 := by decide

/-- The last destination that is not VF. -/
theorem witness_AddSetsCarry : (14 : Reg) ≠ VF := by decide

theorem witness_ShiftRightByOne : (14 : Reg) ≠ VF := by decide

theorem witness_ReverseSubtractAlways : (14 : Reg) ≠ VF := by decide

theorem witness_ShiftLeftByOne : (14 : Reg) ≠ VF := by decide

/-- X below 15, and operands on either side of the borrow. -/
theorem witness_SubtractUnlessItBorrows :
    (1 : Reg) ≠ VF ∧ ((State.reset.setV 2 1).getV 1).toNat < ((State.reset.setV 2 1).getV 2).toNat ∧
      ¬ (State.reset.getV 1).toNat < (State.reset.getV 2).toNat := by decide

theorem witness_DecimalDigitsAreStored :
    (State.reset.setI 0xFFD).mem.wf = true ∧ (State.reset.setI 0xFFD).i.toNat + 2 = 0xFFF := by decide

theorem witness_RegistersAreStored :
    (State.reset.setI 0xFF0).mem.wf = true ∧ (State.reset.setI 0xFF0).i.toNat + (15 : Reg).val = 0xFFF := by decide

theorem witness_RegistersAreLoaded : (State.reset.setI 0xFFF).i.toNat + (0 : Reg).val ≤ 0xFFF := by decide

theorem witness_AccessAboveMemoryFaults :
    0xFFF < (State.reset.setI 0xFFE).i.toNat + 2 ∧ 0xFFF < (State.reset.setI 0xFFF).i.toNat + (1 : Reg).val := by decide

theorem witness_StoreThenLoadRestoresTheRegisters :
    ∃ s t u : State, s.mem.wf = true ∧ s.i.toNat + (2 : Reg).val ≤ 0xFFF ∧ exec (.ldMemVx 2) s = .next t ∧
      u.mem = t.mem ∧ u.i = s.i :=
  ⟨State.reset.setI 0x300, _, { State.reset.setI 0x300 with mem := _ }, by decide, by decide, rfl, rfl, rfl⟩

/-- The program of T123. -/
theorem witness_StoredCodeIsFetchedNext :
    ∃ s t : State, s.mem.wf = true ∧ AtInstr s (.ldMemVx 1) ∧ 1 ≤ (1 : Reg).val ∧ s.pc.toNat + 2 = s.i.toNat ∧
      s.i.toNat + (1 : Reg).val ≤ 0xFFF ∧ step s = .next t :=
  ⟨placed 0xF155 fun s => ((s.setI 0x202).setV 0 0x12).setV 1 0x02, _, by decide, ⟨rfl, rfl, by decide, rfl⟩, by decide,
    by decide, by decide, rfl⟩

/-- A sprite that just fits into the last columns and rows (as T135). -/
def lastCorner : State := setByte 0x300 0xA5 (((State.reset.setI 0x300).setV 1 56).setV 2 29)

theorem lastCorner_reads : DrawReads lastCorner 1 2 3 := by simp only [DrawReads]; decide

theorem lastCorner_onGrid (r c : Nat) (h : LitCell lastCorner 1 2 3 r c) : r ≤ 31 ∧ c ≤ 63 := by
  have hx : (lastCorner.getV 1).toNat = 56 := by decide
  have hy : (lastCorner.getV 2).toNat = 29 := by decide
  obtain ⟨-, h1, -, h2, -⟩ := h
  omega

theorem witness_DrawXorsTheSprite :
    ∃ s : State, DrawReads s 1 2 3 ∧ ∀ r c, LitCell s 1 2 3 r c → r ≤ 31 ∧ c ≤ 63 :=
  ⟨lastCorner, lastCorner_reads, lastCorner_onGrid⟩

theorem witness_DrawFromOffTheGridDrawsNothing :
    64 ≤ ((State.reset.setV 0 64).getV 0).toNat ∧ 32 ≤ ((State.reset.setV 1 32).getV 1).toNat := by decide

/-- A sprite past the right edge: T141, with the bit in column 64 its only one off the grid. -/
def pastTheEdge : State := setByte 0x300 0xFE ((State.reset.setI 0x300).setV 0 58)

/-- The three clauses of the statement: the bound (T145), the first bit off the grid, and no such bit (T135). -/
theorem witness_DrawFaultsInOrder :
    (((State.reset.setI 0xFFF).getV 0).toNat < 64 ∧ ((State.reset.setI 0xFFF).getV 1).toNat < 32 ∧
      0xFFF < (State.reset.setI 0xFFF).i.toNat + 2 - 1) ∧
    ((pastTheEdge.getV 0).toNat < 64 ∧ (pastTheEdge.getV 1).toNat < 32 ∧ pastTheEdge.i.toNat + 1 - 1 ≤ 0xFFF ∧
      LitCell pastTheEdge 0 1 1 0 64 ∧
      ∀ r c : Nat, LitCell pastTheEdge 0 1 1 r c → (31 < r ∨ 63 < c) → 0 < r ∨ (0 = r ∧ 64 ≤ c)) ∧
    ((lastCorner.getV 1).toNat ≤ 56 ∧ (lastCorner.getV 2).toNat + 3 ≤ 32) := by
  refine ⟨by decide, ⟨by decide, by decide, by decide, by simp only [LitCell]; decide, ?_⟩, by decide⟩
  intro r c h ho
  have hy : (pastTheEdge.getV 1).toNat = 0 := by decide
  have := h.2.1
  omega

/-- S4: the same sprite twice at (0, 0). -/
theorem witness_DrawTwiceRestoresTheScreen :
    ∃ s t : State, DrawReads s 0 1 1 ∧ exec (.drwVxVyN 0 1 1) s = .next t ∧ Completed t ∧
      t.getV 0 = s.getV 0 ∧ t.getV 1 = s.getV 1 :=
  ⟨setByte 0x300 0xFF (State.reset.setI 0x300), _, by simp only [DrawReads]; decide, rfl, by simp only [Completed]; decide,
    by decide, by decide⟩

/-- The largest index, and the first above it. -/
theorem witness_KeySkips :
    ((State.reset.setV 0 15).getV 0).toNat ≤ 15 ∧ 15 < ((State.reset.setV 0 16).getV 0).toNat := by decide

theorem witness_KeyWaitReportsAPressedKey :
    ({ State.reset with keys := 0x8001 } : State).keys ≠ 0 ∧
      ({ State.reset with keys := 0x8001 } : State).keys.getLsbD 15 = true := by decide

theorem witness_KeyWaitStallsWithoutAKey : ∃ s : State, AtInstr s (.ldVxK 5) :=
  ⟨placed 0xF50A id, rfl, rfl, by decide, rfl⟩

end Sys2Proof.Tests
end

/-! SUPPORT. How a step ends, in full, and what each instruction does to PC (R25, R95). -/

namespace Sys2Proof.Machine

/-! ### The ends of a step -/

/-- A stall during a step leaves all of the block but the key sample and IR (R95). -/
theorem sameBlock_concludeStep_stall (s : State) : SameBlock s (concludeStep s (stall (executeState s))) :=
  ⟨rfl, rfl, rfl, ⟨rfl, rfl⟩, ⟨rfl, rfl⟩, rfl, rfl, rfl, rfl⟩

/-- The three ends of a step that answers a next state (R90, R95): an instruction completed and the timers are updated;
or the step stalled; or it raised a fault, and the state is the one before it with FAULT set. -/
theorem step_next_cases {s t : State} (h : step s = .next t) :
    (∃ i u, AtInstr s i ∧ exec i (executeState s) = .next u ∧ u.outcome = some .completed ∧ t = timerUpdate u) ∨
    (t.outcome = some .stalled ∧ SameBlock s t ∧ t.beep = false) ∨
    (s.fault = none ∧ ∃ r, t =
      { s with fault := some r, beep := false, outcome := some .faulted, keyInput := s.keyInput.next }) := by
  rcases step_cases s with ⟨-, e⟩ | ⟨-, -, e⟩ | ⟨-, hf, -, e⟩ | ⟨-, -, -, -, e⟩ | ⟨hi, hf, hp, i, hd, e⟩ <;>
    rw [e] at h
  · cases h
  · cases h
    exact .inr (.inl ⟨rfl, ⟨rfl, rfl, rfl, ⟨rfl, rfl⟩, ⟨rfl, rfl⟩, rfl, rfl, rfl, rfl⟩, rfl⟩)
  · cases h
    exact .inr (.inr ⟨hf, _, rfl⟩)
  · cases h
    exact .inr (.inl ⟨rfl, sameBlock_concludeStep_stall s, rfl⟩)
  · obtain ⟨u, he, hu⟩ := exec_endsWell i (executeState s)
    rw [he] at h
    cases h
    rcases hu with ⟨hc, -, -⟩ | rfl | ⟨r, rfl⟩
    · exact .inl ⟨i, u, atInstr_iff.2 ⟨hi, hf, hp, hd⟩, he, hc, concludeStep_completed hc⟩
    · exact .inr (.inl ⟨rfl, sameBlock_concludeStep_stall s, rfl⟩)
    · exact .inr (.inr ⟨hf, r, rfl⟩)

/-! ### PC after an instruction (R25) -/

/-- An instruction that checks before it acts and completed did not take the fault. -/
theorem eq_of_checked_completed {c : Prop} [Decidable c] {r : FaultRecord} {s u : State}
    (h : (if c then raiseFault r s else u).outcome = some .completed) : (if c then raiseFault r s else u) = u := by
  by_cases hc : c
  · rw [if_pos hc] at h
    cases h
  · exact if_neg hc

/-- The PC of a skip on a condition that is negated. -/
theorem skipWhen_not_pc (c : Bool) (s : State) : (skipWhen (!c) s).pc = if c then s.pc + 2 else s.pc + 4 := by
  cases c <;> rfl

theorem addrOf_toNat (nnn : Addr) : (addrOf nnn).toNat = nnn.toNat := by
  have := nnn.isLt
  simp only [addrOf, BitVec.toNat_setWidth]
  omega

/-- The sum of BNNN does not wrap (R104). -/
theorem addrOf_add_byte_toNat (nnn : Addr) (b : Byte) :
    (addrOf nnn + b.setWidth 16).toNat = nnn.toNat + b.toNat := by
  have := nnn.isLt
  have := b.isLt
  rw [BitVec.toNat_add, addrOf_toNat, BitVec.toNat_setWidth]
  omega

/-- A completed draw on the drawn path advances. -/
theorem drawCells_pc {cells : List (Nat × Nat)} {s : State} (h : (drawCells cells s).outcome = some .completed) :
    (drawCells cells s).pc = s.pc + 2 := by
  unfold drawCells at h ⊢
  split at h
  · cases h
  · rfl

/-- 00EE that completes goes to the top entry plus 2 (R101). -/
theorem execRet_pcAfter {s u : State} (h : execRet s = .next u) (hc : u.outcome = some .completed) :
    PcAfter .ret s u := by
  rcases Nat.eq_zero_or_pos s.sp.val with h0 | hs
  · rw [execRet, popEntry_eq_none.2 (Fin.ext h0)] at h
    cases h
    cases hc
  · rw [execRet, popEntry_of_pos hs] at h
    cases h
    exact ⟨⟨s.sp.val - 1, by omega⟩, Nat.sub_add_cancel hs, rfl⟩

/-- 2NNN that completes goes to NNN (R103). -/
theorem execCallNnn_pcAfter {nnn : Addr} {s u : State} (h : execCallNnn nnn s = .next u)
    (hc : u.outcome = some .completed) : PcAfter (.callNnn nnn) s u := by
  obtain rfl := Host.Outcome.next.inj h
  split at hc
  · cases hc
  · exact addrOf_toNat nnn

/-- An instruction that completes leaves the PC of R25's table. -/
theorem exec_pcAfter {i : Instr} {s u : State} (h : exec i s = .next u) (hc : u.outcome = some .completed) :
    PcAfter i s u := by
  cases i with
  | ret => exact execRet_pcAfter h hc
  | callNnn nnn => exact execCallNnn_pcAfter h hc
  | jpNnn nnn =>
    obtain rfl := Host.Outcome.next.inj h
    exact addrOf_toNat nnn
  | jpV0Nnn nnn =>
    obtain rfl := Host.Outcome.next.inj h
    exact addrOf_add_byte_toNat nnn (s.getV 0)
  | seVxNn x nn =>
    obtain rfl := Host.Outcome.next.inj h
    simp [PcAfter]
  | seVxVy x y =>
    obtain rfl := Host.Outcome.next.inj h
    simp [PcAfter]
  | sneVxNn x nn =>
    obtain rfl := Host.Outcome.next.inj h
    simp [PcAfter, bne, skipWhen_not_pc, -skipWhen_pc]
  | sneVxVy x y =>
    obtain rfl := Host.Outcome.next.inj h
    simp [PcAfter, bne, skipWhen_not_pc, -skipWhen_pc]
  | skpVx x =>
    obtain rfl := Host.Outcome.next.inj h
    rw [eq_of_checked_completed hc]
    rfl
  | sknpVx x =>
    obtain rfl := Host.Outcome.next.inj h
    rw [eq_of_checked_completed hc]
    exact skipWhen_not_pc _ s
  | subVxVy x y =>
    obtain rfl := Host.Outcome.next.inj h
    show (if _ then _ else _ : State).pc + 2 = s.pc + 2
    split <;> rfl
  | ldBVx x | ldMemVx x | ldVxMem x =>
    obtain rfl := Host.Outcome.next.inj h
    rw [eq_of_checked_completed hc]
    rfl
  | drwVxVyN x y n =>
    obtain rfl := Host.Outcome.next.inj h
    by_cases hg : offGrid ((s.getV y).toNat, (s.getV x).toNat) = true
    · rw [if_pos hg]
      rfl
    · rw [if_neg hg] at hc ⊢
      have hd := eq_of_checked_completed hc
      rw [hd] at hc ⊢
      exact drawCells_pc hc
  | ldVxK x =>
    obtain rfl := Host.Outcome.next.inj h
    split at hc
    · cases hc
    · rfl
  | _ =>
    obtain rfl := Host.Outcome.next.inj h
    rfl

/-- The table reads the same off the whole step as off its instruction: sampling the keys and latching IR come before
it and touch nothing it reads, and the timer update after it moves neither PC nor the keys. -/
theorem pcAfter_of_executeState {i : Instr} {s u : State} (h : PcAfter i (executeState s) u) :
    PcAfter i s (timerUpdate u) := h

/-- Settles O17: a step that does not complete leaves PC, and one that completes ran an instruction, which left the PC
of the table. -/
theorem pcChangesOnlyByTheTable : Obligations.PcChangesOnlyByTheTable := by
  intro s t h
  rcases step_next_cases h with ⟨i, u, ha, he, hc, rfl⟩ | ⟨ho, hb, -⟩ | ⟨-, r, rfl⟩
  · exact ⟨fun hn => absurd hc hn, fun _ => ⟨i, ha, pcAfter_of_executeState (exec_pcAfter he hc)⟩⟩
  · obtain ⟨-, -, hpc, -⟩ := hb
    exact ⟨fun _ => hpc, fun hc => by simp [ho] at hc⟩
  · exact ⟨fun _ => rfl, fun hc => by simp at hc⟩

end Sys2Proof.Machine

/-! SUPPORT. Runs of steps that each keep a condition, and the block that meets an unrecognised word (R79, R96). -/

namespace Sys2Proof.Machine

/-! ### A run whose every step keeps a condition -/

/-- Where every step from a state in `P` ends in `P` and relates the two states by a transitive `R`, so does every run
of at least one step. -/
theorem run_of_step_keeps {P : State → Prop} {R : State → State → Prop}
    (trans : ∀ {s t u : State}, R s t → R t u → R s u)
    (keeps : ∀ s : State, P s → ∃ t, step s = .next t ∧ P t ∧ R s t) (k : Nat) :
    ∀ s : State, P s → ∃ t, Sys2Proof.core.run (k + 1) s = .next t ∧ P t ∧ R s t := by
  induction k with
  | zero =>
    intro s hs
    obtain ⟨t, he, ht, hr⟩ := keeps s hs
    exact ⟨t, run_succ_of_next he, ht, hr⟩
  | succ k ih =>
    intro s hs
    obtain ⟨t, he, ht, hst⟩ := keeps s hs
    obtain ⟨u, hrun, hu, htu⟩ := ih t ht
    exact ⟨u, (run_succ_of_next he).trans hrun, hu, trans hst htu⟩

theorem sameBlock_trans {s t u : State} (hst : SameBlock s t) (htu : SameBlock t u) : SameBlock s u := by
  obtain ⟨hv, hi, hpc, ⟨hsp, hstack⟩, ⟨hdt, hst'⟩, hfault, hmem, hfb, hinit⟩ := hst
  obtain ⟨hv', hi', hpc', ⟨hsp', hstack'⟩, ⟨hdt', hst''⟩, hfault', hmem', hfb', hinit'⟩ := htu
  exact ⟨hv'.trans hv, hi'.trans hi, hpc'.trans hpc, ⟨hsp'.trans hsp, hstack'.trans hstack⟩,
    ⟨hdt'.trans hdt, hst''.trans hst'⟩, hfault'.trans hfault, hmem'.trans hmem, hfb'.trans hfb, hinit'.trans hinit⟩

/-- From `s`, stalls alone have led to `t`: the block is the same, with no beep (R95). -/
def StalledSince (s t : State) : Prop := SameBlock s t ∧ t.beep = false ∧ t.outcome = some .stalled

theorem stalledSince_trans {s t u : State} (hst : StalledSince s t) (htu : StalledSince t u) : StalledSince s u := by
  obtain ⟨hb, -⟩ := hst
  obtain ⟨hb', hend⟩ := htu
  exact ⟨sameBlock_trans hb hb', hend⟩

/-! ### An unrecognised word at PC -/

/-- What decides that a word at PC is unrecognised is part of the block. -/
theorem hung_of_sameBlock {s t : State} (hs : Hung s) (h : SameBlock s t) : Hung t := by
  obtain ⟨-, -, hpc, -, -, hfault, hmem, -, hinit⟩ := h
  unfold Hung
  rw [hpc, hfault, hmem, hinit]
  exact hs

/-- A step at an unrecognised word is a stall (R96). -/
theorem step_of_hung {s : State} (h : Hung s) : step s = .next (concludeStep s (stall (executeState s))) := by
  obtain ⟨hi, hf, hp, r, hd⟩ := h
  rcases step_cases s with ⟨h, -⟩ | ⟨-, h, -⟩ | ⟨-, -, h, -⟩ | ⟨-, -, -, -, e⟩ | ⟨-, -, -, j, h, -⟩
  · exact absurd hi (by simp [h])
  · exact absurd hf h
  · omega
  · exact e
  · exact absurd (hd.symm.trans h) (by simp)

/-- Settles O10: the step is a stall, a stall keeps the block and so the unrecognised word, and by induction on the
number of steps the same holds of every run. -/
theorem unrecognisedWordStallsForEver : Obligations.UnrecognisedWordStallsForEver := by
  intro s k hs
  refine run_of_step_keeps (R := StalledSince) stalledSince_trans (fun s hs => ?_) k s hs
  have hb := sameBlock_concludeStep_stall s
  exact ⟨_, step_of_hung hs, hung_of_sameBlock hs hb, hb, rfl, rfl⟩

end Sys2Proof.Machine

/-! SUPPORT. The two jumps: which words they are, and that a transfer of control alone leaves the rest (R102, R104). -/

namespace Sys2Proof.Machine

/-! ### The jumps' words -/

/-- Every word of the family op = 0x1 is the jump 1NNN (R73, R77). -/
theorem decodeWord_wordA_jpNnn (nnn : Addr) : decodeWord (wordA 0x1 nnn) = .ok (.jpNnn nnn) := by
  simp [decodeWord, fieldOp_wordA, fieldNNN_wordA]

/-- Every word of the family op = 0xB is the jump BNNN (R73, R77). -/
theorem decodeWord_wordA_jpV0Nnn (nnn : Addr) : decodeWord (wordA 0xB nnn) = .ok (.jpV0Nnn nnn) := by
  simp [decodeWord, fieldOp_wordA, fieldNNN_wordA]

/-! ### Instructions that write PC alone -/

/-- What an instruction that does nothing but write PC and complete leaves unchanged. -/
theorem complete_setPc_frame (w : Word) (s : State) :
    SameRegsBut [] s (complete (s.setPc w)) ∧ (complete (s.setPc w)).i = s.i ∧ SameMem s (complete (s.setPc w)) ∧
      SameRest s (complete (s.setPc w)) := by
  have hregs : SameRegsBut [] s (complete (s.setPc w)) := fun _ _ => by simp
  have hmem : SameMem s (complete (s.setPc w)) := fun _ => by simp
  have hrest : SameRest s (complete (s.setPc w)) := by
    simp [SameRest, SameCalls, SameTimers, SameLatches, SameInputs]
  exact ⟨hregs, by simp, hmem, hrest⟩

theorem exec_jpNnn (nnn : Addr) (s : State) : exec (.jpNnn nnn) s = .next (complete (s.setPc (addrOf nnn))) := rfl

theorem exec_jpV0Nnn (nnn : Addr) (s : State) :
    exec (.jpV0Nnn nnn) s = .next (complete (s.setPc (addrOf nnn + (s.getV 0).setWidth 16))) := rfl

/-- Settles O25: the address is zero-extended into PC, and nothing but PC is written. -/
theorem jumpSetsPc : Obligations.JumpSetsPc := fun nnn s =>
  ⟨decodeWord_wordA_jpNnn nnn, _, exec_jpNnn nnn s, complete_outcome _, addrOf_toNat nnn, complete_setPc_frame _ s⟩

/-- Settles O26: a 12-bit address plus a byte is at most 0x10FE, so the 16-bit sum does not wrap, and nothing but PC is
written. -/
theorem jumpPlusV0SetsPc : Obligations.JumpPlusV0SetsPc := fun nnn s =>
  ⟨decodeWord_wordA_jpV0Nnn nnn, _, exec_jpV0Nnn nnn s, complete_outcome _, addrOf_add_byte_toNat nnn (s.getV 0),
    complete_setPc_frame _ s⟩

end Sys2Proof.Machine

/-! SUPPORT. The four skips on registers: which words they are, and what a comparison does to PC (R111 to R114). -/

namespace Sys2Proof.Machine

/-! ### The skips' words -/

/-- Every word of the family op = 0x3 is the skip 3XNN (R73, R77). -/
theorem decodeWord_wordI_seVxNn (x : Reg) (nn : Byte) : decodeWord (wordI 0x3 x nn) = .ok (.seVxNn x nn) := by
  simp [decodeWord, fieldOp_wordI, fieldX_wordI, fieldNN_wordI]

/-- Every word of the family op = 0x4 is the skip 4XNN (R73, R77). -/
theorem decodeWord_wordI_sneVxNn (x : Reg) (nn : Byte) : decodeWord (wordI 0x4 x nn) = .ok (.sneVxNn x nn) := by
  simp [decodeWord, fieldOp_wordI, fieldX_wordI, fieldNN_wordI]

/-- A word of the register format with last digit 0 is the instruction of its family. -/
theorem decodeLastZero_wordR_zero (op : BitVec 4) (x y : Reg) (i : Instr) :
    decodeLastZero (wordR op x y 0) i = .ok i := by
  simp [decodeLastZero, fieldN_wordR]

/-- A word of the register format with another last digit is unrecognised. -/
theorem decodeLastZero_wordR_of_ne_zero (op : BitVec 4) (x y : Reg) (i : Instr) {n : BitVec 4} (hn : n ≠ 0) :
    decodeLastZero (wordR op x y n) i = .error (.unrecognised (wordR op x y n)) := by
  unfold decodeLastZero
  split
  · next h => exact absurd ((fieldN_wordR op x y n).symm.trans h) hn
  · rfl

/-- In the family op = 0x5 the last digit alone decides between 5XY0 and no instruction (R73, R78). -/
theorem decodeWord_wordR_seVxVy (x y : Reg) (n : BitVec 4) :
    decodeWord (wordR 0x5 x y n) = decodeLastZero (wordR 0x5 x y n) (.seVxVy x y) := by
  simp [decodeWord, fieldOp_wordR, fieldX_wordR, fieldY_wordR]

/-- In the family op = 0x9 the last digit alone decides between 9XY0 and no instruction (R73, R78). -/
theorem decodeWord_wordR_sneVxVy (x y : Reg) (n : BitVec 4) :
    decodeWord (wordR 0x9 x y n) = decodeLastZero (wordR 0x9 x y n) (.sneVxVy x y) := by
  simp [decodeWord, fieldOp_wordR, fieldX_wordR, fieldY_wordR]

/-! ### Instructions that skip on a comparison -/

/-- A skip writes PC alone. -/
theorem skipWhen_eq_setPc (c : Bool) (s : State) : skipWhen c s = s.setPc (if c then s.pc + 4 else s.pc + 2) := rfl

/-- What a skip and its completion leave unchanged. -/
theorem complete_skipWhen_frame (c : Bool) (s : State) :
    SameRegsBut [] s (complete (skipWhen c s)) ∧ (complete (skipWhen c s)).i = s.i ∧
      SameMem s (complete (skipWhen c s)) ∧ SameRest s (complete (skipWhen c s)) := by
  rw [skipWhen_eq_setPc]
  exact complete_setPc_frame _ s

/-- An instruction that skips when two bytes are equal, as the skips' statements say it. -/
theorem skips_of_exec_eq_beq {i : Instr} {a b : Byte} {s : State}
    (h : exec i s = .next (complete (skipWhen (a == b) s))) :
    ∃ t, exec i s = .next t ∧ Completed t ∧ t.pc = (if a.toNat = b.toNat then s.pc + 4 else s.pc + 2) ∧
      SameRegsBut [] s t ∧ t.i = s.i ∧ SameMem s t ∧ SameRest s t := by
  have hpc : (complete (skipWhen (a == b) s)).pc = if a.toNat = b.toNat then s.pc + 4 else s.pc + 2 := by
    simp [BitVec.toNat_inj]
  exact ⟨_, h, complete_outcome _, hpc, complete_skipWhen_frame _ s⟩

/-- An instruction that skips when two bytes differ: the same comparison with the two ends exchanged. -/
theorem skips_of_exec_eq_bne {i : Instr} {a b : Byte} {s : State}
    (h : exec i s = .next (complete (skipWhen (a != b) s))) :
    ∃ t, exec i s = .next t ∧ Completed t ∧ t.pc = (if a.toNat = b.toNat then s.pc + 2 else s.pc + 4) ∧
      SameRegsBut [] s t ∧ t.i = s.i ∧ SameMem s t ∧ SameRest s t := by
  have hpc : (complete (skipWhen (a != b) s)).pc = if a.toNat = b.toNat then s.pc + 2 else s.pc + 4 := by
    simp [bne, skipWhen_not_pc, -skipWhen_pc, BitVec.toNat_inj]
  exact ⟨_, h, complete_outcome _, hpc, complete_skipWhen_frame _ s⟩

theorem exec_seVxNn (x : Reg) (nn : Byte) (s : State) :
    exec (.seVxNn x nn) s = .next (complete (skipWhen (s.getV x == nn) s)) := rfl

theorem exec_sneVxNn (x : Reg) (nn : Byte) (s : State) :
    exec (.sneVxNn x nn) s = .next (complete (skipWhen (s.getV x != nn) s)) := rfl

theorem exec_seVxVy (x y : Reg) (s : State) :
    exec (.seVxVy x y) s = .next (complete (skipWhen (s.getV x == s.getV y) s)) := rfl

theorem exec_sneVxVy (x y : Reg) (s : State) :
    exec (.sneVxVy x y) s = .next (complete (skipWhen (s.getV x != s.getV y) s)) := rfl

/-- Settles O31: both families decode to their skip whatever the byte, and a skip writes PC alone, by the comparison of
VX with that byte. -/
theorem skipOnImmediate : Obligations.SkipOnImmediate := fun x nn s =>
  ⟨decodeWord_wordI_seVxNn x nn, decodeWord_wordI_sneVxNn x nn, skips_of_exec_eq_beq (exec_seVxNn x nn s),
    skips_of_exec_eq_bne (exec_sneVxNn x nn s)⟩

/-- Settles O32: the last digit decides whether the word is the skip or none, and a skip writes PC alone, by the
comparison of VX with VY. -/
theorem skipOnRegisters : Obligations.SkipOnRegisters := by
  intro x y s
  refine ⟨?_, ?_, fun n hn => ⟨?_, ?_⟩, skips_of_exec_eq_beq (exec_seVxVy x y s),
    skips_of_exec_eq_bne (exec_sneVxVy x y s)⟩
  · exact (decodeWord_wordR_seVxVy x y 0).trans (decodeLastZero_wordR_zero 0x5 x y _)
  · exact (decodeWord_wordR_sneVxVy x y 0).trans (decodeLastZero_wordR_zero 0x9 x y _)
  · exact (decodeWord_wordR_seVxVy x y n).trans (decodeLastZero_wordR_of_ne_zero 0x5 x y _ hn)
  · exact (decodeWord_wordR_sneVxVy x y n).trans (decodeLastZero_wordR_of_ne_zero 0x9 x y _ hn)

end Sys2Proof.Machine

/-! SUPPORT. The loads, the add without a flag and the bitwise operations: which words they are, and what an instruction
that writes one register and goes on leaves unchanged (R121 to R126). -/

namespace Sys2Proof.Machine

/-! ### Their words -/

/-- Every word of the family op = 0x6 is the load 6XNN (R73, R77). -/
theorem decodeWord_wordI_ldVxNn (x : Reg) (nn : Byte) : decodeWord (wordI 0x6 x nn) = .ok (.ldVxNn x nn) := by
  simp [decodeWord, fieldOp_wordI, fieldX_wordI, fieldNN_wordI]

/-- Every word of the family op = 0x7 is the add 7XNN (R73, R77). -/
theorem decodeWord_wordI_addVxNn (x : Reg) (nn : Byte) : decodeWord (wordI 0x7 x nn) = .ok (.addVxNn x nn) := by
  simp [decodeWord, fieldOp_wordI, fieldX_wordI, fieldNN_wordI]

/-- In the family op = 0x8 the last digit selects the operation (R73, R133). -/
theorem decodeWord_wordR_alu (x y : Reg) (n : BitVec 4) :
    decodeWord (wordR 0x8 x y n) = decodeAlu (wordR 0x8 x y n) := by
  simp [decodeWord, fieldOp_wordR]

theorem decodeWord_wordR_ldVxVy (x y : Reg) : decodeWord (wordR 0x8 x y 0x0) = .ok (.ldVxVy x y) := by
  rw [decodeWord_wordR_alu]
  simp [decodeAlu, fieldN_wordR, fieldX_wordR, fieldY_wordR]

theorem decodeWord_wordR_orVxVy (x y : Reg) : decodeWord (wordR 0x8 x y 0x1) = .ok (.orVxVy x y) := by
  rw [decodeWord_wordR_alu]
  simp [decodeAlu, fieldN_wordR, fieldX_wordR, fieldY_wordR]

theorem decodeWord_wordR_andVxVy (x y : Reg) : decodeWord (wordR 0x8 x y 0x2) = .ok (.andVxVy x y) := by
  rw [decodeWord_wordR_alu]
  simp [decodeAlu, fieldN_wordR, fieldX_wordR, fieldY_wordR]

theorem decodeWord_wordR_xorVxVy (x y : Reg) : decodeWord (wordR 0x8 x y 0x3) = .ok (.xorVxVy x y) := by
  rw [decodeWord_wordR_alu]
  simp [decodeAlu, fieldN_wordR, fieldX_wordR, fieldY_wordR]

/-! ### Instructions that write one register and go on -/

/-- The state after an instruction that writes `b` to VX, moves PC past itself and completes. -/
def afterWrite (x : Reg) (b : Byte) (s : State) : State := complete (advance (s.setV x b))

theorem afterWrite_completed (x : Reg) (b : Byte) (s : State) : Completed (afterWrite x b s) := complete_outcome _

theorem afterWrite_getV_same (x : Reg) (b : Byte) (s : State) : (afterWrite x b s).getV x = b := by
  simp [afterWrite]

/-- What such an instruction leaves unchanged: everything but VX and PC. -/
theorem afterWrite_frame (x : Reg) (b : Byte) (s : State) :
    (afterWrite x b s).pc = s.pc + 2 ∧ SameRegsBut [x] s (afterWrite x b s) ∧ (afterWrite x b s).i = s.i ∧
      SameMem s (afterWrite x b s) ∧ SameRest s (afterWrite x b s) := by
  have hregs : SameRegsBut [x] s (afterWrite x b s) := fun r hr =>
    getV_setV_other s x r b (Ne.symm (List.ne_of_not_mem_cons hr))
  have hmem : SameMem s (afterWrite x b s) := fun _ => by simp [afterWrite]
  have hrest : SameRest s (afterWrite x b s) := by
    simp [SameRest, SameCalls, SameTimers, SameLatches, SameInputs, afterWrite]
  exact ⟨rfl, hregs, rfl, hmem, hrest⟩

theorem exec_ldVxNn (x : Reg) (nn : Byte) (s : State) : exec (.ldVxNn x nn) s = .next (afterWrite x nn s) := rfl

theorem exec_ldVxVy (x y : Reg) (s : State) : exec (.ldVxVy x y) s = .next (afterWrite x (s.getV y) s) := rfl

theorem exec_addVxNn (x : Reg) (nn : Byte) (s : State) :
    exec (.addVxNn x nn) s = .next (afterWrite x (s.getV x + nn) s) := rfl

theorem exec_orVxVy (x y : Reg) (s : State) :
    exec (.orVxVy x y) s = .next (afterWrite x (s.getV x ||| s.getV y) s) := rfl

theorem exec_andVxVy (x y : Reg) (s : State) :
    exec (.andVxVy x y) s = .next (afterWrite x (s.getV x &&& s.getV y) s) := rfl

theorem exec_xorVxVy (x y : Reg) (s : State) :
    exec (.xorVxVy x y) s = .next (afterWrite x (s.getV x ^^^ s.getV y) s) := rfl

/-- Settles O33: each load writes its operand to VX, and nothing but VX and PC is written. -/
theorem loadsWriteVx : Obligations.LoadsWriteVx :=
  ⟨fun x nn s =>
    ⟨decodeWord_wordI_ldVxNn x nn, _, exec_ldVxNn x nn s, afterWrite_completed x nn s, afterWrite_getV_same x nn s,
      afterWrite_frame x nn s⟩,
   fun x y s =>
    ⟨decodeWord_wordR_ldVxVy x y, _, exec_ldVxVy x y s, afterWrite_completed x _ s, afterWrite_getV_same x _ s,
      afterWrite_frame x _ s⟩⟩

/-- Settles O34: the 8-bit sum is the sum modulo 256, and nothing but VX and PC is written, so VF is VX or stays. -/
theorem addImmediateWrapsWithoutFlag : Obligations.AddImmediateWrapsWithoutFlag := by
  intro x nn s
  have hsum : ((afterWrite x (s.getV x + nn) s).getV x).toNat = ((s.getV x).toNat + nn.toNat) % 256 := by
    rw [afterWrite_getV_same, BitVec.toNat_add]
  exact ⟨decodeWord_wordI_addVxNn x nn, _, exec_addVxNn x nn s, afterWrite_completed x _ s, hsum,
    afterWrite_frame x _ s⟩

/-- Settles O35: each operation acts on every bit by itself, and nothing but VX and PC is written. -/
theorem bitwiseOperationsWorkOnEveryBit : Obligations.BitwiseOperationsWorkOnEveryBit := by
  intro x y s
  refine ⟨decodeWord_wordR_orVxVy x y, decodeWord_wordR_andVxVy x y, decodeWord_wordR_xorVxVy x y,
    ⟨_, exec_orVxVy x y s, afterWrite_completed x _ s, fun k => ?_, afterWrite_frame x _ s⟩,
    ⟨_, exec_andVxVy x y s, afterWrite_completed x _ s, fun k => ?_, afterWrite_frame x _ s⟩,
    ⟨_, exec_xorVxVy x y s, afterWrite_completed x _ s, fun k => ?_, afterWrite_frame x _ s⟩⟩
  · rw [afterWrite_getV_same, BitVec.getLsbD_or]
  · rw [afterWrite_getV_same, BitVec.getLsbD_and]
  · rw [afterWrite_getV_same, BitVec.getLsbD_xor]

end Sys2Proof.Machine

/-! SUPPORT. The loads of the index register: which words they are, and what an instruction that writes I and goes on
leaves unchanged (R141, R143). -/

namespace Sys2Proof.Machine

/-! ### Their words -/

/-- Every word of the family op = 0xA is the load ANNN (R73, R77). -/
theorem decodeWord_wordA_ldINnn (nnn : Addr) : decodeWord (wordA 0xA nnn) = .ok (.ldINnn nnn) := by
  simp [decodeWord, fieldOp_wordA, fieldNNN_wordA]

/-- In the family op = 0xF the low byte selects the operation (R73). -/
theorem decodeWord_wordI_misc (x : Reg) (nn : Byte) : decodeWord (wordI 0xF x nn) = decodeMisc (wordI 0xF x nn) := by
  simp [decodeWord, fieldOp_wordI]

theorem decodeWord_wordI_ldFVx (x : Reg) : decodeWord (wordI 0xF x 0x29) = .ok (.ldFVx x) := by
  rw [decodeWord_wordI_misc]
  simp [decodeMisc, fieldX_wordI, fieldNN_wordI]

/-! ### Instructions that write the index register and go on -/

/-- The state after an instruction that writes `w` to I, moves PC past itself and completes. -/
def afterSetI (w : Word) (s : State) : State := complete (advance (s.setI w))

theorem afterSetI_completed (w : Word) (s : State) : Completed (afterSetI w s) := complete_outcome _

theorem afterSetI_i (w : Word) (s : State) : (afterSetI w s).i = w := rfl

/-- What such an instruction leaves unchanged: everything but I and PC. -/
theorem afterSetI_frame (w : Word) (s : State) :
    (afterSetI w s).pc = s.pc + 2 ∧ SameRegsBut [] s (afterSetI w s) ∧ SameMem s (afterSetI w s) ∧
      SameRest s (afterSetI w s) := by
  have hregs : SameRegsBut [] s (afterSetI w s) := fun _ _ => by simp [afterSetI]
  have hmem : SameMem s (afterSetI w s) := fun _ => by simp [afterSetI]
  have hrest : SameRest s (afterSetI w s) := by
    simp [SameRest, SameCalls, SameTimers, SameLatches, SameInputs, afterSetI]
  exact ⟨rfl, hregs, hmem, hrest⟩

theorem exec_ldINnn (nnn : Addr) (s : State) : exec (.ldINnn nnn) s = .next (afterSetI (addrOf nnn) s) := rfl

theorem exec_ldFVx (x : Reg) (s : State) :
    exec (.ldFVx x) s = .next (afterSetI (BitVec.ofNat 16 ((s.getV x).toNat * 5)) s) := rfl

/-- Five times a byte is at most 1275, so all of it fits I (R143). -/
theorem byte_mul_five_toNat (b : Byte) : (BitVec.ofNat 16 (b.toNat * 5)).toNat = b.toNat * 5 := by
  have hb := b.isLt
  rw [BitVec.toNat_ofNat]
  omega

/-- Settles O42: the address is zero-extended into I, five times a byte fits I, and nothing but I and PC is written. -/
theorem indexLoads : Obligations.IndexLoads :=
  ⟨fun nnn s =>
    ⟨decodeWord_wordA_ldINnn nnn, _, exec_ldINnn nnn s, afterSetI_completed _ s,
      (congrArg BitVec.toNat (afterSetI_i _ s)).trans (addrOf_toNat nnn), afterSetI_frame _ s⟩,
   fun x s =>
    ⟨decodeWord_wordI_ldFVx x, _, exec_ldFVx x s, afterSetI_completed _ s,
      (congrArg BitVec.toNat (afterSetI_i _ s)).trans (byte_mul_five_toNat (s.getV x)), afterSetI_frame _ s⟩⟩

end Sys2Proof.Machine

/-! SUPPORT. The clear: its one word, and what an instruction that writes the framebuffer alone and goes on leaves
unchanged (R151). -/

namespace Sys2Proof.Machine

/-- The clear is one word, with no operand (R77). -/
theorem decodeWord_cls : decodeWord 0x00E0 = .ok .cls := rfl

/-! ### Instructions that write the framebuffer and go on -/

/-- The state after an instruction that writes `f` to the framebuffer, moves PC past itself and completes. -/
def afterSetFb (f : Framebuffer) (s : State) : State := complete (advance { s with fb := f })

theorem afterSetFb_completed (f : Framebuffer) (s : State) : Completed (afterSetFb f s) := complete_outcome _

theorem afterSetFb_fb (f : Framebuffer) (s : State) : (afterSetFb f s).fb = f := rfl

/-- What such an instruction leaves unchanged: everything but the framebuffer and PC. -/
theorem afterSetFb_frame (f : Framebuffer) (s : State) :
    (afterSetFb f s).pc = s.pc + 2 ∧ SameRegsBut [] s (afterSetFb f s) ∧ (afterSetFb f s).i = s.i ∧
      SameMem s (afterSetFb f s) ∧ SameCalls s (afterSetFb f s) ∧ SameTimers s (afterSetFb f s) ∧
      SameLatches s (afterSetFb f s) ∧ SameInputs s (afterSetFb f s) := by
  have hregs : SameRegsBut [] s (afterSetFb f s) := fun _ _ => rfl
  have hmem : SameMem s (afterSetFb f s) := fun _ => by simp [afterSetFb]
  have hcalls : SameCalls s (afterSetFb f s) := by simp [SameCalls, afterSetFb]
  have htimers : SameTimers s (afterSetFb f s) := by simp [SameTimers, afterSetFb]
  have hlatches : SameLatches s (afterSetFb f s) := by simp [SameLatches, afterSetFb]
  have hinputs : SameInputs s (afterSetFb f s) := by simp [SameInputs, afterSetFb]
  exact ⟨rfl, hregs, rfl, hmem, hcalls, htimers, hlatches, hinputs⟩

theorem exec_cls (s : State) : exec .cls s = .next (afterSetFb Framebuffer.clear s) := rfl

/-- Settles O50: the framebuffer written is the clear one, which does not depend on what the cells held, and nothing but
the framebuffer and PC is written. -/
theorem clearZeroesTheScreen : Obligations.ClearZeroesTheScreen := by
  refine ⟨decodeWord_cls, fun s => ?_⟩
  have hcells : ∀ r c : Nat, r < 32 → c < 64 →
      Framebuffer.cell (afterSetFb Framebuffer.clear s).fb r c = false := fun r c _ _ => by
    rw [afterSetFb_fb, cell_clear]
  exact ⟨_, exec_cls s, afterSetFb_completed _ s, hcells, afterSetFb_frame _ s⟩

end Sys2Proof.Machine

/-! SUPPORT. The load from the delay timer: which word it is, and what it writes to VX (R164). -/

namespace Sys2Proof.Machine

/-- Every word FX07 is the load from the delay timer (R73, R77). -/
theorem decodeWord_wordI_ldVxDt (x : Reg) : decodeWord (wordI 0xF x 0x07) = .ok (.ldVxDt x) := by
  rw [decodeWord_wordI_misc]
  simp [decodeMisc, fieldX_wordI, fieldNN_wordI]

theorem exec_ldVxDt (x : Reg) (s : State) : exec (.ldVxDt x) s = .next (afterWrite x s.dt s) := rfl

/-- Settles O58: the delay timer as it stood is written to VX, and nothing but VX and PC is written, so the timer
update of the step counts down the same delay timer. -/
theorem delayTimerIsRead : Obligations.DelayTimerIsRead := by
  intro x s
  obtain ⟨hpc, hregs, hi, hmem, hrest⟩ := afterWrite_frame x s.dt s
  have hdt : (timerUpdate (afterWrite x s.dt s)).dt.toNat = s.dt.toNat - 1 := by
    obtain ⟨-, ⟨hkept, -⟩, -⟩ := hrest
    rw [timerUpdate_dt, countDown_toNat, hkept]
  exact ⟨decodeWord_wordI_ldVxDt x, _, exec_ldVxDt x s, afterWrite_completed x s.dt s, afterWrite_getV_same x s.dt s,
    hpc, hregs, hi, hmem, hrest, hdt⟩

end Sys2Proof.Machine

/-! SUPPORT. Reset and load: the values cold reset leaves, and what an accepted image does to memory (R201, R207). -/

namespace Sys2Proof.Machine

/-! ### Cold reset -/

/-- The reset state holds every value of R201. -/
theorem reset_resetValues : ResetValues State.reset := by
  have hregs : ∀ r : Reg, State.reset.getV r = 0 := fun r => by simp [State.getV, State.reset]
  have hstack : ∀ k : Fin 16, State.reset.stack[k] = 0 := fun k => by simp [State.reset]
  have hcells : ∀ r c : Nat, r < 32 → c < 64 → Framebuffer.cell State.reset.fb r c = false :=
    fun r c _ _ => cell_clear r c
  exact ⟨hregs, rfl, rfl, rfl, hstack, rfl, rfl, rfl, hcells, rfl⟩

/-- A cold reset that acts leaves the values of R201: it differs from the reset state only in memory, the key flags and
the inputs, of which R201 says nothing (R202). -/
theorem coldReset_resetValues {s : State} (h : s.initialised = false ∨ s.fault ≠ none) :
    ResetValues (coldReset s) := by
  rw [coldReset_of_acting h]
  exact reset_resetValues

/-- Settles O1: the reset state holds the values, and before reset a cold reset acts, so it writes the same ones. -/
theorem coldResetWritesItsValues : Obligations.ColdResetWritesItsValues :=
  ⟨reset_resetValues, fun _ hpower => coldReset_resetValues (.inl hpower)⟩

/-! ### Loading a program -/

/-- After cold reset an image of at most 3584 bytes is accepted: it is stored from 0x200 on, and only memory is
written. -/
theorem loadProgram_of_accepted {s : State} {image : List Byte} (hinit : s.initialised = true)
    (hlen : image.length ≤ 3584) : loadProgram image s = { s with mem := storeBytes s.mem 0x200 image } :=
  if_pos (by simp [hinit, hlen])

/-- Settles O4: an accepted image is a block store from 0x200 on, and 0x200 + 3584 = 0x1000, so it ends within
memory. -/
theorem loadPlacesTheImage : Obligations.LoadPlacesTheImage := by
  intro s image hinit hwf hlen
  have hfits : 0x200 + image.length ≤ 0x1000 := by omega
  rw [loadProgram_of_accepted hinit hlen]
  exact ⟨fun _ hk => read_storeBytes_inside hwf hfits hk, fun _ hb => read_storeBytes_outside hb,
    storeBytes_wf hfits hwf, rfl⟩

end Sys2Proof.Machine

/-! SUPPORT. The decoder against the encoder: each instruction's word decodes to it, a word is put together again from
its fields, and the words that decode to nothing are those of the list (R72, R77, R78, R84). -/

namespace Sys2Proof.Machine

/-! ### The word of an instruction decodes to it -/

/-- In the family op = 0xE the low byte selects the key test (R73). -/
theorem decodeWord_wordI_key (x : Reg) (nn : Byte) : decodeWord (wordI 0xE x nn) = decodeKey (wordI 0xE x nn) := by
  simp [decodeWord]

/-- Every row count below 16 fits the 4 bits of the field (R74). -/
theorem decodeWord_wordR_drwVxVyN (x y : Reg) {n : Nat} (hn : n < 16) :
    decodeWord (wordR 0xD x y (BitVec.ofNat 4 n)) = .ok (.drwVxVyN x y n) := by
  simp [decodeWord, Nat.mod_eq_of_lt hn]

theorem decodeWord_encodeWord {i : Instr} (h : i.wellFormed = true) : decodeWord (encodeWord i) = .ok i := by
  cases i with
  | cls | ret => rfl
  | jpNnn nnn | callNnn nnn | ldINnn nnn | jpV0Nnn nnn => simp [encodeWord, decodeWord]
  | seVxNn x nn | sneVxNn x nn | ldVxNn x nn | addVxNn x nn | rndVxNn x nn => simp [encodeWord, decodeWord]
  | seVxVy x y => exact (decodeWord_wordR_seVxVy x y 0).trans (decodeLastZero_wordR_zero 0x5 x y _)
  | sneVxVy x y => exact (decodeWord_wordR_sneVxVy x y 0).trans (decodeLastZero_wordR_zero 0x9 x y _)
  | ldVxVy x y | orVxVy x y | andVxVy x y | xorVxVy x y | addVxVy x y | subVxVy x y | shrVx x y | subnVxVy x y
  | shlVx x y => exact (decodeWord_wordR_alu x y _).trans (by simp [decodeAlu])
  | drwVxVyN x y n => exact decodeWord_wordR_drwVxVyN x y (of_decide_eq_true h)
  | skpVx x | sknpVx x => exact (decodeWord_wordI_key x _).trans (by simp [decodeKey])
  | ldVxDt x | ldVxK x | ldDtVx x | ldStVx x | addIVx x | ldFVx x | ldBVx x | ldMemVx x | ldVxMem x =>
    exact (decodeWord_wordI_misc x _).trans (by simp [decodeMisc])

/-- Settles O5: the decoder on bytes is the decoder on their word, which decodes to the instruction, family by
family. -/
theorem decodeOfEncodeIsTheInstruction : Obligations.DecodeOfEncodeIsTheInstruction := by
  intro i rest h
  rw [encode, decode_wordBytes, decodeWord_encodeWord h]

/-! ### A word from its fields -/

theorem wordA_fields {w : Word} {op : BitVec 4} (h : fieldOp w = op) : wordA op (fieldNNN w) = w := by
  subst h
  apply BitVec.eq_of_getLsbD_eq
  intro k hk
  simp only [wordA, fieldOp, fieldNNN, BitVec.getLsbD_append, BitVec.getLsbD_extractLsb']
  by_cases h12 : k < 12
  · simp [h12]
  · have e : 12 + (k - 12) = k := by omega
    have l : k - 12 < 4 := by omega
    simp [h12, e, l]

/-- The low 12 bits are X and the low byte. -/
theorem fieldNNN_eq_fieldX_fieldNN (w : Word) : fieldNNN w = regBits (fieldX w) ++ fieldNN w := by
  apply BitVec.eq_of_getLsbD_eq
  intro k hk
  simp only [fieldNNN, fieldX, fieldNN, regBits, BitVec.ofFin_toFin, BitVec.getLsbD_append,
    BitVec.getLsbD_extractLsb']
  by_cases h8 : k < 8
  · simp [h8, hk]
  · have e : 8 + (k - 8) = k := by omega
    have l : k - 8 < 4 := by omega
    simp [h8, hk, e, l]

/-- The low byte is Y and the low nibble. -/
theorem fieldNN_eq_fieldY_fieldN (w : Word) : fieldNN w = regBits (fieldY w) ++ fieldN w := by
  apply BitVec.eq_of_getLsbD_eq
  intro k hk
  simp only [fieldNN, fieldY, fieldN, regBits, BitVec.ofFin_toFin, BitVec.getLsbD_append,
    BitVec.getLsbD_extractLsb']
  by_cases h4 : k < 4
  · simp [h4, hk]
  · have e : 4 + (k - 4) = k := by omega
    have l : k - 4 < 4 := by omega
    simp [h4, hk, e, l]

theorem wordI_eq_wordA (op : BitVec 4) (x : Reg) (nn : Byte) : wordI op x nn = wordA op (regBits x ++ nn) :=
  BitVec.append_assoc

theorem wordR_eq_wordI (op : BitVec 4) (x y : Reg) (n : BitVec 4) : wordR op x y n = wordI op x (regBits y ++ n) :=
  BitVec.append_assoc

theorem wordI_fields {w : Word} {op : BitVec 4} (h : fieldOp w = op) : wordI op (fieldX w) (fieldNN w) = w := by
  rw [wordI_eq_wordA, ← fieldNNN_eq_fieldX_fieldNN, wordA_fields h]

theorem wordR_fields {w : Word} {op : BitVec 4} (h : fieldOp w = op) :
    wordR op (fieldX w) (fieldY w) (fieldN w) = w := by
  rw [wordR_eq_wordI, ← fieldNN_eq_fieldY_fieldN, wordI_fields h]

/-- A word is known from its family, X and a fixed low byte. -/
theorem wordI_of_byte {w : Word} {op : BitVec 4} {nn : Byte} (h : fieldOp w = op) (hn : fieldNN w = nn) :
    wordI op (fieldX w) nn = w := hn ▸ wordI_fields h

/-- A word is known from its family, X, Y and a fixed last digit. -/
theorem wordR_of_digit {w : Word} {op n : BitVec 4} (h : fieldOp w = op) (hn : fieldN w = n) :
    wordR op (fieldX w) (fieldY w) n = w := hn ▸ wordR_fields h

/-! ### A word that decodes is the word of its instruction, family by family -/

/-- The instruction's word is `w`, and its fields fit. -/
def WordOf (w : Word) (i : Instr) : Prop := encodeWord i = w ∧ i.wellFormed = true

theorem wordOf_of_decodeZero {w : Word} {i : Instr} (hop : fieldOp w = 0x0) (h : decodeZero w = .ok i) :
    WordOf w i := by
  have hw : wordA 0x0 (fieldNNN w) = w := wordA_fields hop
  unfold decodeZero at h
  split at h
  · next hn =>
    cases h
    exact ⟨by rw [← hw, hn]; rfl, rfl⟩
  · next hn =>
    cases h
    exact ⟨by rw [← hw, hn]; rfl, rfl⟩
  · cases h

theorem wordOf_of_decodeLastZero {w : Word} {i j : Instr} (hj : fieldN w = 0 → WordOf w j)
    (h : decodeLastZero w j = .ok i) : WordOf w i := by
  unfold decodeLastZero at h
  split at h
  · next hn =>
    cases h
    exact hj hn
  · cases h

theorem wordOf_of_decodeAlu {w : Word} {i : Instr} (hop : fieldOp w = 0x8) (h : decodeAlu w = .ok i) :
    WordOf w i := by
  unfold decodeAlu at h
  split at h
  case h_10 => cases h
  all_goals
    next hn =>
      cases h
      exact ⟨wordR_of_digit hop hn, rfl⟩

theorem wordOf_of_decodeKey {w : Word} {i : Instr} (hop : fieldOp w = 0xE) (h : decodeKey w = .ok i) :
    WordOf w i := by
  unfold decodeKey at h
  split at h
  case h_3 => cases h
  all_goals
    next hn =>
      cases h
      exact ⟨wordI_of_byte hop hn, rfl⟩

theorem wordOf_of_decodeMisc {w : Word} {i : Instr} (hop : fieldOp w = 0xF) (h : decodeMisc w = .ok i) :
    WordOf w i := by
  unfold decodeMisc at h
  split at h
  case h_10 => cases h
  all_goals
    next hn =>
      cases h
      exact ⟨wordI_of_byte hop hn, rfl⟩

theorem wordOf_drwVxVyN {w : Word} (hop : fieldOp w = 0xD) :
    WordOf w (.drwVxVyN (fieldX w) (fieldY w) (fieldN w).toNat) := by
  refine ⟨?_, decide_eq_true (fieldN w).isLt⟩
  rw [encodeWord, BitVec.ofNat_toNat, BitVec.setWidth_eq, wordR_fields hop]

/-- Settles O6: in each family the decoded operands are the fields of the word, and a word is put together from its
fields. -/
theorem encodeOfDecodeIsTheWord : Obligations.EncodeOfDecodeIsTheWord := by
  intro w i h
  unfold decodeWord at h
  split at h
  case h_1 hop => exact wordOf_of_decodeZero hop h
  case h_6 hop =>
    exact wordOf_of_decodeLastZero (j := .seVxVy _ _) (fun hn => ⟨wordR_of_digit hop hn, rfl⟩) h
  case h_10 hop =>
    exact wordOf_of_decodeLastZero (j := .sneVxVy _ _) (fun hn => ⟨wordR_of_digit hop hn, rfl⟩) h
  case h_9 hop => exact wordOf_of_decodeAlu hop h
  case h_14 hop => exact Except.ok.inj h ▸ wordOf_drwVxVyN hop
  case h_15 hop => exact wordOf_of_decodeKey hop h
  case h_16 hop => exact wordOf_of_decodeMisc hop h
  case h_17 => cases h
  case h_2 hop | h_3 hop | h_11 hop | h_12 hop => exact Except.ok.inj h ▸ ⟨wordA_fields hop, rfl⟩
  case h_4 hop | h_5 hop | h_7 hop | h_8 hop | h_13 hop => exact Except.ok.inj h ▸ ⟨wordI_fields hop, rfl⟩

/-! ### The unrecognised words -/

theorem fieldOp_toNat (w : Word) : (fieldOp w).toNat = w.toNat / 4096 := by
  have := w.isLt
  rw [fieldOp, BitVec.extractLsb'_toNat, Nat.shiftRight_eq_div_pow]
  omega

theorem fieldNNN_toNat (w : Word) : (fieldNNN w).toNat = w.toNat % 4096 := by
  rw [fieldNNN, BitVec.extractLsb'_toNat, Nat.shiftRight_zero]

theorem fieldNN_toNat (w : Word) : (fieldNN w).toNat = w.toNat % 256 := by
  rw [fieldNN, BitVec.extractLsb'_toNat, Nat.shiftRight_zero]

theorem fieldN_toNat (w : Word) : (fieldN w).toNat = w.toNat % 16 := by
  rw [fieldN, BitVec.extractLsb'_toNat, Nat.shiftRight_zero]

/-- In the family op = 0x0 the 12-bit field is the whole word. -/
theorem fieldNNN_eq_iff {w : Word} (h : fieldOp w = 0x0) (nnn : Addr) : fieldNNN w = nnn ↔ w.toNat = nnn.toNat := by
  have hop : (fieldOp w).toNat = 0 := by rw [h]; rfl
  have hnnn := nnn.isLt
  rw [fieldOp_toNat] at hop
  rw [BitVec.toNat_eq, fieldNNN_toNat]
  omega

theorem decodeZero_eq_error {w : Word} (h : fieldOp w = 0x0) :
    decodeZero w = .error (.unrecognised w) ↔ w.toNat ≠ 0x00E0 ∧ w.toNat ≠ 0x00EE := by
  have hE0 := fieldNNN_eq_iff h 0x0E0
  have hEE := fieldNNN_eq_iff h 0x0EE
  unfold decodeZero
  split
  case h_1 hn => simp [hE0.1 hn]
  case h_2 hn => simp [hEE.1 hn]
  case h_3 h1 h2 => exact iff_of_true rfl ⟨fun e => h1 (hE0.2 e), fun e => h2 (hEE.2 e)⟩

theorem decodeLastZero_eq_error {w : Word} {i : Instr} :
    decodeLastZero w i = .error (.unrecognised w) ↔ fieldN w ≠ 0 := by
  unfold decodeLastZero
  split
  · next h => simp [h]
  · next h => simpa using h

/-- The last digits that stand for no operation, found by trying the sixteen. -/
theorem decodeAlu_eq_error {w : Word} :
    decodeAlu w = .error (.unrecognised w) ↔ (fieldN w).toNat ∈ [0x8, 0x9, 0xA, 0xB, 0xC, 0xD, 0xF] := by
  have digits : ∀ n : BitVec 4, n.toNat ∈ [0x8, 0x9, 0xA, 0xB, 0xC, 0xD, 0xF] ↔
      n ∉ [0x0#4, 0x1#4, 0x2#4, 0x3#4, 0x4#4, 0x5#4, 0x6#4, 0x7#4, 0xE#4] := by decide
  rw [digits]
  unfold decodeAlu
  split
  case h_10 h0 h1 h2 h3 h4 h5 h6 h7 hE => simpa using ⟨h0, h1, h2, h3, h4, h5, h6, h7, hE⟩
  all_goals
    next h => simp [h]

theorem decodeKey_eq_error {w : Word} :
    decodeKey w = .error (.unrecognised w) ↔ fieldNN w ≠ 0x9E ∧ fieldNN w ≠ 0xA1 := by
  unfold decodeKey
  split
  case h_3 h1 h2 => simpa using ⟨h1, h2⟩
  all_goals
    next h => simp [h]

theorem decodeMisc_eq_error {w : Word} :
    decodeMisc w = .error (.unrecognised w) ↔
      fieldNN w ∉ [0x07#8, 0x0A#8, 0x15#8, 0x18#8, 0x1E#8, 0x29#8, 0x33#8, 0x55#8, 0x65#8] := by
  unfold decodeMisc
  split
  case h_10 h1 h2 h3 h4 h5 h6 h7 h8 h9 => simpa using ⟨h1, h2, h3, h4, h5, h6, h7, h8, h9⟩
  all_goals
    next h => simp [h]

/-- The sixteen families. -/
theorem nibble_mem (n : BitVec 4) :
    n ∈ [0x0#4, 0x1#4, 0x2#4, 0x3#4, 0x4#4, 0x5#4, 0x6#4, 0x7#4, 0x8#4, 0x9#4, 0xA#4, 0xB#4, 0xC#4, 0xD#4, 0xE#4,
      0xF#4] := by
  revert n
  decide

/-- Settles O7: in each family a word decodes to nothing exactly for the digits the list leaves out. -/
theorem unrecognisedWordsAreExactlyTheListed : Obligations.UnrecognisedWordsAreExactlyTheListed := by
  intro w
  rw [← fieldOp_toNat, ← fieldN_toNat, ← fieldNN_toNat]
  unfold decodeWord
  split
  case h_1 h => simp [h, decodeZero_eq_error h]
  case h_6 h => simp [h, decodeLastZero_eq_error, ← BitVec.toNat_inj]
  case h_9 h => simp [h, decodeAlu_eq_error]
  case h_10 h => simp [h, decodeLastZero_eq_error, ← BitVec.toNat_inj]
  case h_15 h => simp [h, decodeKey_eq_error, ← BitVec.toNat_inj]
  case h_16 h => simp [h, decodeMisc_eq_error, ← BitVec.toNat_inj]
  case h_17 h0 h1 h2 h3 h4 h5 h6 h7 h8 h9 hA hB hC hD hE hF =>
    refine absurd (nibble_mem (fieldOp w)) ?_
    simpa using ⟨h0, h1, h2, h3, h4, h5, h6, h7, h8, h9, hA, hB, hC, hD, hE, hF⟩
  all_goals
    next h => simp [h]

/-- Settles O8: each word is evaluated. -/
theorem writtenWordsDecode : Obligations.WrittenWordsDecode :=
  ⟨rfl, rfl, rfl, rfl, rfl, rfl, rfl, rfl, rfl, rfl⟩

end Sys2Proof.Machine

/-! SUPPORT. An instruction that faults, and the call and the return: what they write of the call stack and of PC, and
what they leave unchanged (R101, R103, R172, R173, R178). -/

namespace Sys2Proof.Machine

/-! ### Instructions that raise a fault -/

/-- A fault changes FAULT and nothing else of the block (R178), as the statements about faults say it. -/
theorem faults_of_exec {i : Instr} {s : State} {r : FaultRecord} (h : exec i s = .next (raiseFault r s)) :
    ∃ t, exec i s = .next t ∧ t.fault = some r ∧ SameBlock { s with fault := t.fault } t ∧
      t.outcome = some .faulted := by
  have hblock : SameBlock { s with fault := some r } (raiseFault r s) := by simp [SameBlock, SameCalls, SameTimers]
  exact ⟨_, h, raiseFault_fault s r, hblock, raiseFault_outcome s r⟩

/-- An instruction that completed raised no fault. -/
theorem exec_ne_raiseFault_of_completed {i : Instr} {s u : State} {r : FaultRecord} (h : exec i s = .next u)
    (hc : Completed u) : exec i s ≠ .next (raiseFault r s) := by
  intro e
  obtain rfl := Host.Outcome.next.inj (h.symm.trans e)
  cases hc

/-! ### The call and the return -/

/-- The state after an instruction that writes the call stack, SP and PC alone and completes. -/
def afterTransfer (stack : Vector Word 16) (sp : Fin 17) (w : Word) (s : State) : State :=
  complete (State.setPc { s with stack := stack, sp := sp } w)

theorem afterTransfer_completed (stack : Vector Word 16) (sp : Fin 17) (w : Word) (s : State) :
    Completed (afterTransfer stack sp w s) := complete_outcome _

/-- What such an instruction leaves unchanged: everything but the call stack, SP and PC. -/
theorem afterTransfer_frame (stack : Vector Word 16) (sp : Fin 17) (w : Word) (s : State) :
    SameRegsBut [] s (afterTransfer stack sp w s) ∧ (afterTransfer stack sp w s).i = s.i ∧
      SameMem s (afterTransfer stack sp w s) ∧ SameTimers s (afterTransfer stack sp w s) ∧
      (afterTransfer stack sp w s).fb = s.fb ∧ SameLatches s (afterTransfer stack sp w s) ∧
      SameInputs s (afterTransfer stack sp w s) := by
  have hregs : SameRegsBut [] s (afterTransfer stack sp w s) := fun _ _ => rfl
  have hmem : SameMem s (afterTransfer stack sp w s) := fun _ => rfl
  have htimers : SameTimers s (afterTransfer stack sp w s) := ⟨rfl, rfl⟩
  have hlatches : SameLatches s (afterTransfer stack sp w s) := by simp [SameLatches, afterTransfer]
  have hinputs : SameInputs s (afterTransfer stack sp w s) := by simp [SameInputs, afterTransfer]
  exact ⟨hregs, rfl, hmem, htimers, rfl, hlatches, hinputs⟩

/-- A stack that is not full has an entry free (R32). -/
theorem sp_lt_of_ne_full {s : State} (h : s.sp ≠ 16) : s.sp.val < 16 :=
  Nat.lt_of_le_of_ne (Nat.le_of_lt_succ s.sp.isLt) fun e => h (Fin.ext e)

/-- 2NNN with an entry free (R103). -/
theorem exec_callNnn_of_lt (nnn : Addr) {s : State} (hs : s.sp.val < 16) :
    exec (.callNnn nnn) s =
      .next (afterTransfer (s.stack.set s.sp.val s.pc hs) ⟨s.sp.val + 1, by omega⟩ (addrOf nnn) s) := by
  rw [exec, execCallNnn, pushPc_of_lt hs]
  rfl

/-- 2NNN with the stack full (R172). -/
theorem exec_callNnn_of_full (nnn : Addr) {s : State} (hs : s.sp = 16) :
    exec (.callNnn nnn) s = .next (raiseFault (.stackOverflow s.pc) s) := by
  rw [exec, execCallNnn, pushPc_eq_none.2 hs]

/-- 00EE with an entry in use (R101). -/
theorem exec_ret_of_pos {s : State} (hs : 0 < s.sp.val) :
    exec .ret s =
      .next (afterTransfer s.stack ⟨s.sp.val - 1, by omega⟩ (s.stack[s.sp.val - 1]'(by omega) + 2) s) := by
  rw [exec, execRet, popEntry_of_pos hs]
  rfl

/-- 00EE with the stack empty (R173). -/
theorem exec_ret_of_empty {s : State} (hs : s.sp = 0) :
    exec .ret s = .next (raiseFault (.stackUnderflow s.pc) s) := by
  rw [exec, execRet, popEntry_eq_none.2 hs]

/-- Settles O27: the push writes PC to entry SP of the stack and raises SP, and nothing else but PC is written. -/
theorem callPushesItsOwnAddress : Obligations.CallPushesItsOwnAddress := by
  intro nnn s hs
  have hstack : ∀ k : Fin 16, (s.stack.set s.sp.val s.pc hs)[k] = if k.val = s.sp.val then s.pc else s.stack[k] :=
    fun k => by simp only [Fin.getElem_fin, Vector.getElem_set, eq_comm]
  exact ⟨_, exec_callNnn_of_lt nnn hs, afterTransfer_completed _ _ _ s, addrOf_toNat nnn, rfl, hstack,
    afterTransfer_frame _ _ _ s⟩

/-- Settles O28: with k the entry under SP, the pop reads it, leaves it, and nothing but SP and PC is written. -/
theorem returnPopsAndAddsTwo : Obligations.ReturnPopsAndAddsTwo := by
  intro s k hk
  have hs : 0 < s.sp.val := by omega
  have hsub : s.sp.val - 1 = k.val := by omega
  have hpc : s.stack[s.sp.val - 1]'(by omega) + 2 = s.stack[k] + 2 := by simp only [hsub, Fin.getElem_fin]
  exact ⟨_, exec_ret_of_pos hs, afterTransfer_completed _ _ _ s, hpc, hsub, rfl, afterTransfer_frame _ _ _ s⟩

/-- Settles O29: at their bounds the push and the pop fail, and the instruction raises its fault. -/
theorem callAndReturnFaultAtTheirBounds : Obligations.CallAndReturnFaultAtTheirBounds :=
  ⟨fun nnn _ hs => faults_of_exec (exec_callNnn_of_full nnn hs), fun _ hs => faults_of_exec (exec_ret_of_empty hs)⟩

/-! ### A call followed by a return -/

/-- A step at an instruction that completes is that instruction and the timer update. -/
theorem step_of_completed {s u : State} {i : Instr} (ha : AtInstr s i) (he : exec i (executeState s) = .next u)
    (hc : Completed u) : step s = .next (timerUpdate u) := by
  rw [step_of_atInstr ha he, concludeStep_completed hc]

/-- Settles O30: the call leaves its own address in the entry the return pops, and neither writes anything else that is
compared. -/
theorem callThenReturnComesBack : Obligations.CallThenReturnComesBack := by
  intro s nnn ha hs hn hret
  obtain ⟨hinit, hfault, hpc, -⟩ := id ha
  obtain ⟨t, het, hct, htpc, htsp, htstack, htregs, hti, htmem, -, htfb, htlatches, -⟩ :=
    callPushesItsOwnAddress nnn (executeState s) hs
  obtain ⟨-, htfault, -, htinit, -⟩ := htlatches
  have hat : AtInstr (timerUpdate t) .ret := by
    refine ⟨htinit.trans hinit, htfault.trans hfault, ?_, ?_⟩
    · rw [timerUpdate_pc, htpc]
      exact hn
    · rw [timerUpdate_pc, timerUpdate_mem, htpc, htmem, htmem]
      exact hret
  obtain ⟨u, heu, hcu, hupc, husp, -, huregs, hui, humem, -, hufb, hulatches, -⟩ :=
    returnPopsAndAddsTwo (executeState (timerUpdate t)) ⟨s.sp.val, hs⟩ htsp.symm
  obtain ⟨-, hufault, -⟩ := hulatches
  have hentry : t.stack[(⟨s.sp.val, hs⟩ : Fin 16)] = s.pc :=
    (htstack ⟨s.sp.val, hs⟩).trans (if_pos rfl)
  have hrun : Sys2Proof.core.run 2 s = .next (timerUpdate u) := by
    rw [run_succ_of_next (step_of_completed ha het hct), run_succ_of_next (step_of_completed hat heu hcu)]
    rfl
  have hv : u.v = s.v := Vector.ext fun k hk =>
    (huregs ⟨k, hk⟩ List.not_mem_nil).trans (htregs ⟨k, hk⟩ List.not_mem_nil)
  refine ⟨timerUpdate u, hrun, ?_, Fin.ext husp, hv, hui.trans hti, fun a => (humem a).trans (htmem a),
    hufb.trans htfb, hufault.trans (htfault.trans hfault)⟩
  have hback : u.pc = s.pc + 2 := by rw [hupc, ← hentry]; rfl
  rw [timerUpdate_pc, hback, BitVec.toNat_add]
  show (s.pc.toNat + 2) % 65536 = s.pc.toNat + 2
  omega

end Sys2Proof.Machine

/-! SUPPORT. The operations that write VF as a flag, and the random byte: what an instruction that writes two registers
and goes on leaves unchanged (R127 to R131, R134, R142). -/

namespace Sys2Proof.Machine

/-! ### Instructions that write two registers and go on -/

/-- What an instruction leaves unchanged that writes VX and then VY: everything but the two and PC. The list may name
the two in either order. -/
theorem afterWrite_setV_frame {x y : Reg} {xs : List Reg} (hx : x ∈ xs) (hy : y ∈ xs) (a b : Byte) (s : State) :
    (afterWrite y b (s.setV x a)).pc = s.pc + 2 ∧ SameRegsBut xs s (afterWrite y b (s.setV x a)) ∧
      (afterWrite y b (s.setV x a)).i = s.i ∧ SameMem s (afterWrite y b (s.setV x a)) ∧
      SameRest s (afterWrite y b (s.setV x a)) := by
  obtain ⟨hpc, hregs, hi, hmem, hrest⟩ := afterWrite_frame y b (s.setV x a)
  refine ⟨hpc, fun r hr => ?_, hi, hmem, hrest⟩
  have hrx : x ≠ r := fun e => hr (e ▸ hx)
  have hry : r ∉ [y] := List.not_mem_cons_of_ne_of_not_mem (fun e => hr (e ▸ hy)) List.not_mem_nil
  rw [hregs r hry, getV_setV_other s x r a hrx]

/-- Of two writes the one to the other register stays. -/
theorem afterWrite_setV_getV_other {x y : Reg} (h : y ≠ x) (a b : Byte) (s : State) :
    (afterWrite y b (s.setV x a)).getV x = a := by
  have hkept : (afterWrite y b (s.setV x a)).getV x = (s.setV x a).getV x := getV_setV_other _ y x b h
  rw [hkept, getV_setV_same]

theorem exec_addVxVy (x y : Reg) (s : State) :
    exec (.addVxVy x y) s =
      .next (afterWrite VF (carryFlag (s.getV x) (s.getV y)) (s.setV x (s.getV x + s.getV y))) := rfl

theorem exec_shrVx (x y : Reg) (s : State) :
    exec (.shrVx x y) s = .next (afterWrite x (s.getV x >>> 1) (s.setV VF (shiftedOutLow (s.getV x)))) := rfl

theorem exec_subnVxVy (x y : Reg) (s : State) :
    exec (.subnVxVy x y) s =
      .next (afterWrite x (s.getV y - s.getV x) (s.setV VF (subnFlag (s.getV x) (s.getV y)))) := rfl

theorem exec_shlVx (x y : Reg) (s : State) :
    exec (.shlVx x y) s = .next (afterWrite x (s.getV x <<< 1) (s.setV VF (shiftedOutHigh (s.getV x)))) := rfl

/-- 8XY5 when it borrows: only the flag is written (R128). -/
theorem exec_subVxVy_of_borrow {x y : Reg} {s : State} (h : (s.getV x).toNat < (s.getV y).toNat) :
    exec (.subVxVy x y) s = .next (afterWrite VF (flag false) s) := by
  have hb : subBorrows (s.getV x) (s.getV y) = true := decide_eq_true h
  rw [exec, execSubVxVy, if_pos hb]
  rfl

/-- 8XY5 when it does not borrow: the flag, then the difference (R128). -/
theorem exec_subVxVy_of_le {x y : Reg} {s : State} (h : ¬ (s.getV x).toNat < (s.getV y).toNat) :
    exec (.subVxVy x y) s = .next (afterWrite x (s.getV x - s.getV y) (s.setV VF (flag true))) := by
  have hb : ¬ subBorrows (s.getV x) (s.getV y) = true := fun e => h (of_decide_eq_true e)
  rw [exec, execSubVxVy, if_neg hb]
  rfl

/-! ### The values as numbers -/

/-- The carry is 1 exactly when the sum is above 255: VY > 0xFF − VX, with VX at most 0xFF (R127). -/
theorem carryFlag_toNat (a b : Byte) : (carryFlag a b).toNat = if 255 < a.toNat + b.toNat then 1 else 0 := by
  have ha := a.isLt
  have hiff : 0xFF - a.toNat < b.toNat ↔ 255 < a.toNat + b.toNat := by omega
  simp only [carryFlag, flag_toNat, decide_eq_true_eq, hiff]

theorem shiftedOutLow_toNat (b : Byte) : (shiftedOutLow b).toNat = b.toNat % 2 := by
  rw [shiftedOutLow, BitVec.toNat_and]
  exact Nat.and_one_is_mod _

theorem shiftedOutHigh_toNat (b : Byte) : (shiftedOutHigh b).toNat = b.toNat / 128 := by
  rw [shiftedOutHigh, BitVec.toNat_ushiftRight, Nat.shiftRight_eq_div_pow]

theorem byte_shr_one_toNat (b : Byte) : (b >>> 1).toNat = b.toNat / 2 := by
  rw [BitVec.toNat_ushiftRight, Nat.shiftRight_eq_div_pow]

theorem byte_shl_one_toNat (b : Byte) : (b <<< 1).toNat = b.toNat * 2 % 256 := by
  rw [BitVec.toNat_shiftLeft, Nat.shiftLeft_eq]

theorem byte_sub_toNat (a b : Byte) : (a - b).toNat = (256 + a.toNat - b.toNat) % 256 := by
  have hb := b.isLt
  rw [BitVec.toNat_sub]
  omega

/-! ### The ALU with flags -/

/-- Settles O36: the flag is written last, so it is the carry whatever X is, and the sum stays where X is not 15. -/
theorem addSetsCarry : Obligations.AddSetsCarry := by
  intro x y s
  refine ⟨_, exec_addVxVy x y s, afterWrite_completed _ _ _, ?_, fun hx => ?_,
    afterWrite_setV_frame (by simp) (by simp) _ _ s⟩
  · rw [afterWrite_getV_same, carryFlag_toNat]
  · rw [afterWrite_setV_getV_other hx.symm, BitVec.toNat_add]

/-- Settles O37: on borrow only the flag is written; else the flag and then the difference, which is exact because
VY is at most VX. -/
theorem subtractUnlessItBorrows : Obligations.SubtractUnlessItBorrows := by
  intro x y s
  by_cases h : (s.getV x).toNat < (s.getV y).toNat
  · obtain ⟨hpc, hregs, hi, hmem, hrest⟩ := afterWrite_frame VF (flag false) s
    refine ⟨_, exec_subVxVy_of_borrow h, afterWrite_completed _ _ _, hpc, ?_, hi, hmem, hrest⟩
    rw [if_pos h]
    exact ⟨by rw [afterWrite_getV_same]; rfl, hregs⟩
  · obtain ⟨hpc, hregs, hi, hmem, hrest⟩ :=
      afterWrite_setV_frame (x := VF) (y := x) (xs := [x, VF]) (by simp) (by simp) (flag true) (s.getV x - s.getV y) s
    refine ⟨_, exec_subVxVy_of_le h, afterWrite_completed _ _ _, hpc, ?_, hi, hmem, hrest⟩
    rw [if_neg h]
    refine ⟨?_, fun hx => ?_, hregs⟩
    · have hlt := (s.getV x).isLt
      rw [afterWrite_getV_same, byte_sub_toNat]
      omega
    · rw [afterWrite_setV_getV_other hx]
      rfl

/-- Settles O38: Y is in no rule of the instruction, and the two writes are the bit shifted out and half of VX. -/
theorem shiftRightByOne : Obligations.ShiftRightByOne := by
  intro x y s
  refine ⟨fun _ => rfl, _, exec_shrVx x y s, afterWrite_completed _ _ _, ?_, fun hx => ?_,
    afterWrite_setV_frame (by simp) (by simp) _ _ s⟩
  · rw [afterWrite_getV_same, byte_shr_one_toNat]
  · rw [afterWrite_setV_getV_other hx, shiftedOutLow_toNat]

/-- Settles O39: the two writes are the comparison and the difference modulo 256, the difference last. -/
theorem reverseSubtractAlways : Obligations.ReverseSubtractAlways := by
  intro x y s
  refine ⟨_, exec_subnVxVy x y s, afterWrite_completed _ _ _, ?_, fun hx => ?_,
    afterWrite_setV_frame (by simp) (by simp) _ _ s⟩
  · rw [afterWrite_getV_same, byte_sub_toNat]
  · simp only [afterWrite_setV_getV_other hx, subnFlag, flag_toNat, decide_eq_true_eq]

/-- Settles O40: Y is in no rule of the instruction, and the two writes are the bit shifted out and twice VX. -/
theorem shiftLeftByOne : Obligations.ShiftLeftByOne := by
  intro x y s
  refine ⟨fun _ => rfl, _, exec_shlVx x y s, afterWrite_completed _ _ _, ?_, fun hx => ?_,
    afterWrite_setV_frame (by simp) (by simp) _ _ s⟩
  · rw [afterWrite_getV_same, byte_shl_one_toNat]
  · rw [afterWrite_setV_getV_other hx, shiftedOutHigh_toNat]

/-! ### The random byte -/

theorem exec_rndVxNn (x : Reg) (nn : Byte) (s : State) :
    exec (.rndVxNn x nn) s = .next (afterWrite x (randomByte s &&& nn) (useRandom s)) := rfl

/-- Settles O41: the byte drawn is masked once, so masking it again changes nothing, and a listed draw is the byte. -/
theorem randomByteIsMasked : Obligations.RandomByteIsMasked := by
  intro x nn s
  constructor
  · obtain ⟨hpc, hregs, hi, hmem, hcalls, htimers, hfb, hlatches, hkey, hrnd, hpick⟩ :=
      afterWrite_frame x (randomByte s &&& nn) (useRandom s)
    refine ⟨_, exec_rndVxNn x nn s, afterWrite_completed _ _ _, ?_, hpc, hrnd, hkey, hpick, hregs, hi, hmem, hcalls,
      htimers, hfb, hlatches⟩
    rw [afterWrite_getV_same, BitVec.and_assoc, BitVec.and_self]
  · intro r rs n
    exact ⟨_, exec_rndVxNn x nn _, afterWrite_getV_same x _ _, rfl⟩

end Sys2Proof.Machine

/-! SUPPORT. The instructions that reach memory through I: with their block in memory, and above it (R142, R144 to R146,
R174). -/

namespace Sys2Proof.Machine

/-! ### Adding to the index register -/

theorem exec_addIVx (x : Reg) (s : State) :
    exec (.addIVx x) s =
      .next (afterWrite VF (indexFlag s.i (s.getV x)) (s.setI (BitVec.ofNat 16 (s.i.toNat + (s.getV x).toNat)))) := rfl

/-- Settles O43: the flag compares the unbounded sum, I keeps its low 16 bits, and the flag is the only register
written. -/
theorem addToIndexSetsFlag : Obligations.AddToIndexSetsFlag := by
  intro x s
  obtain ⟨hpc, hregs, hi, hmem, hrest⟩ := afterWrite_frame VF (indexFlag s.i (s.getV x))
    (s.setI (BitVec.ofNat 16 (s.i.toNat + (s.getV x).toNat)))
  refine ⟨_, exec_addIVx x s, afterWrite_completed _ _ _, ?_, ?_, hpc, hregs, hmem, hrest⟩
  · rw [hi, setI_i, BitVec.toNat_ofNat]
  · simp only [afterWrite_getV_same, indexFlag, flag_toNat, decide_eq_true_eq]

/-! ### Instructions that write memory and I and go on -/

/-- The state after an instruction that leaves `m` in memory and `w` in I, moves PC past itself and completes. -/
def afterStore (m : Memory) (w : Word) (s : State) : State := complete (advance { s with mem := m, i := w })

theorem afterStore_completed (m : Memory) (w : Word) (s : State) : Completed (afterStore m w s) := complete_outcome _

/-- What such an instruction leaves unchanged: everything but memory, I and PC. -/
theorem afterStore_frame (m : Memory) (w : Word) (s : State) :
    (afterStore m w s).pc = s.pc + 2 ∧ SameRegsBut [] s (afterStore m w s) ∧ SameRest s (afterStore m w s) := by
  have hregs : SameRegsBut [] s (afterStore m w s) := fun _ _ => rfl
  have hrest : SameRest s (afterStore m w s) := by
    simp [SameRest, SameCalls, SameTimers, SameLatches, SameInputs, afterStore]
  exact ⟨rfl, hregs, hrest⟩

/-- The state after an instruction that leaves `v` in the general registers and `w` in I, moves PC past itself and
completes. -/
def afterLoad (v : Vector Byte 16) (w : Word) (s : State) : State := complete (advance { s with v := v, i := w })

theorem afterLoad_completed (v : Vector Byte 16) (w : Word) (s : State) : Completed (afterLoad v w s) :=
  complete_outcome _

theorem afterLoad_getV (v : Vector Byte 16) (w : Word) (s : State) (r : Reg) : (afterLoad v w s).getV r = v[r] := rfl

/-- What such an instruction leaves unchanged: everything but the general registers, I and PC. -/
theorem afterLoad_frame (v : Vector Byte 16) (w : Word) (s : State) :
    (afterLoad v w s).pc = s.pc + 2 ∧ SameMem s (afterLoad v w s) ∧ SameRest s (afterLoad v w s) := by
  have hmem : SameMem s (afterLoad v w s) := fun _ => rfl
  have hrest : SameRest s (afterLoad v w s) := by
    simp [SameRest, SameCalls, SameTimers, SameLatches, SameInputs, afterLoad]
  exact ⟨rfl, hmem, hrest⟩

/-! ### FX33, FX55 and FX65 on either side of their bound -/

/-- A block of one byte and `k` more ends at I + k. -/
theorem blockOverruns_succ {s : State} {k : Nat} : blockOverruns s (k + 1) = true ↔ 0xFFF < s.i.toNat + k := by
  rw [blockOverruns_eq_true]
  omega

theorem blockLast_succ (s : State) (k : Nat) : blockLast s (k + 1) = s.i.toNat + k := rfl

theorem not_blockOverruns_succ {s : State} {k : Nat} (h : s.i.toNat + k ≤ 0xFFF) : ¬ blockOverruns s (k + 1) = true :=
  fun e => absurd (blockOverruns_succ.1 e) (Nat.not_lt.2 h)

theorem exec_ldBVx_of_fits (x : Reg) {s : State} (h : s.i.toNat + 2 ≤ 0xFFF) :
    exec (.ldBVx x) s = .next (afterStore (storeBytes s.mem (blockStart s) (decimalDigits (s.getV x))) s.i s) := by
  rw [exec, execLdBVx, if_neg (not_blockOverruns_succ h)]
  rfl

theorem exec_ldBVx_of_overruns (x : Reg) {s : State} (h : 0xFFF < s.i.toNat + 2) :
    exec (.ldBVx x) s = .next (raiseFault (.memOutOfRange (s.i.toNat + 2)) s) := by
  rw [exec, execLdBVx, if_pos (blockOverruns_succ.2 h), blockLast_succ]

theorem exec_ldMemVx_of_fits {x : Reg} {s : State} (h : s.i.toNat + x.val ≤ 0xFFF) :
    exec (.ldMemVx x) s =
      .next (afterStore (storeBytes s.mem (blockStart s) (firstRegs s x)) (postIndex s x) s) := by
  rw [exec, execLdMemVx, if_neg (not_blockOverruns_succ h)]
  rfl

theorem exec_ldMemVx_of_overruns {x : Reg} {s : State} (h : 0xFFF < s.i.toNat + x.val) :
    exec (.ldMemVx x) s = .next (raiseFault (.memOutOfRange (s.i.toNat + x.val)) s) := by
  rw [exec, execLdMemVx, if_pos (blockOverruns_succ.2 h), blockLast_succ]

theorem exec_ldVxMem_of_fits {x : Reg} {s : State} (h : s.i.toNat + x.val ≤ 0xFFF) :
    exec (.ldVxMem x) s = .next (afterLoad (loadedRegs s x) (postIndex s x) s) := by
  rw [exec, execLdVxMem, if_neg (not_blockOverruns_succ h)]
  rfl

theorem exec_ldVxMem_of_overruns {x : Reg} {s : State} (h : 0xFFF < s.i.toNat + x.val) :
    exec (.ldVxMem x) s = .next (raiseFault (.memOutOfRange (s.i.toNat + x.val)) s) := by
  rw [exec, execLdVxMem, if_pos (blockOverruns_succ.2 h), blockLast_succ]

@[simp] theorem decimalDigits_length (b : Byte) : (decimalDigits b).length = 3 := rfl

/-- The three digits, one by one (R144). -/
theorem decimalDigits_digit (b : Byte) :
    (decimalDigits b)[0].toNat = b.toNat / 100 ∧ (decimalDigits b)[1].toNat = b.toNat / 10 % 10 ∧
      (decimalDigits b)[2].toNat = b.toNat % 10 := by
  have h := decimalDigits_toNat b
  simp only [decimalDigits, List.map_cons, List.map_nil, List.cons.injEq, and_true] at h
  exact h

/-- Settles O44: the digits are stored as a block of three bytes within memory. -/
theorem decimalDigitsAreStored : Obligations.DecimalDigitsAreStored := by
  intro x s hwf hfits
  have hend : blockStart s + (decimalDigits (s.getV x)).length ≤ 0x1000 := Nat.succ_le_succ hfits
  have hread : ∀ (k : Nat) (hk : k < 3),
      (storeBytes s.mem (blockStart s) (decimalDigits (s.getV x))).read (blockStart s + k) =
        (decimalDigits (s.getV x))[k]'hk := fun k hk => read_storeBytes_inside hwf hend hk
  have hkept : SameMemOutside (blockStart s) 3 s
      (afterStore (storeBytes s.mem (blockStart s) (decimalDigits (s.getV x))) s.i s) :=
    fun b hb => read_storeBytes_outside hb
  obtain ⟨hundreds, tens, ones⟩ := decimalDigits_digit (s.getV x)
  obtain ⟨hpc, hregs, hrest⟩ :=
    afterStore_frame (storeBytes s.mem (blockStart s) (decimalDigits (s.getV x))) s.i s
  exact ⟨_, exec_ldBVx_of_fits x hfits, afterStore_completed _ _ _,
    (congrArg BitVec.toNat (hread 0 (by omega))).trans hundreds,
    (congrArg BitVec.toNat (hread 1 (by omega))).trans tens,
    (congrArg BitVec.toNat (hread 2 (by omega))).trans ones, hkept, rfl, hpc, hregs, rfl, hrest⟩

/-- Settles O45: V0 to VX are stored as a block of X + 1 bytes within memory, and I + X + 1 does not wrap. -/
theorem registersAreStored : Obligations.RegistersAreStored := by
  intro x s hwf hfits
  have hlen := firstRegs_length s x
  have hend : blockStart s + (firstRegs s x).length ≤ 0x1000 := by rw [hlen]; exact Nat.succ_le_succ hfits
  have hread : ∀ r : Reg, r ≤ x →
      (storeBytes s.mem (blockStart s) (firstRegs s x)).read (blockStart s + r.val) = s.getV r := by
    intro r hr
    have hk : r.val < (firstRegs s x).length := by rw [hlen]; exact Nat.lt_succ_of_le hr
    rw [read_storeBytes_inside hwf hend hk, getElem_firstRegs hk]
  have hkept : SameMemOutside (blockStart s) (x.val + 1) s
      (afterStore (storeBytes s.mem (blockStart s) (firstRegs s x)) (postIndex s x) s) :=
    fun b hb => read_storeBytes_outside (by rwa [hlen])
  obtain ⟨hpc, hregs, hrest⟩ :=
    afterStore_frame (storeBytes s.mem (blockStart s) (firstRegs s x)) (postIndex s x) s
  exact ⟨_, exec_ldMemVx_of_fits hfits, afterStore_completed _ _ _, hread, hkept, rfl, postIndex_toNat hfits, hpc,
    hregs, hrest⟩

/-- Settles O46: the registers up to VX are the bytes of the block, the others stay, and I + X + 1 does not wrap. -/
theorem registersAreLoaded : Obligations.RegistersAreLoaded := by
  intro x s hfits
  have hreg : ∀ r : Reg, (afterLoad (loadedRegs s x) (postIndex s x) s).getV r =
      if r ≤ x then s.mem.read (s.i.toNat + r.val) else s.getV r := fun r => getElem_loadedRegs s x r
  obtain ⟨hpc, hmem, hrest⟩ := afterLoad_frame (loadedRegs s x) (postIndex s x) s
  exact ⟨_, exec_ldVxMem_of_fits hfits, afterLoad_completed _ _ _, fun r hr => (hreg r).trans (if_pos hr),
    fun r hr => (hreg r).trans (if_neg (Fin.not_le.2 hr)), postIndex_toNat hfits, hpc, hmem, hrest⟩

/-- Settles O47: above the bound each of the three raises its fault with the unreduced address. -/
theorem accessAboveMemoryFaults : Obligations.AccessAboveMemoryFaults := by
  refine ⟨fun x s h => faults_of_exec (exec_ldBVx_of_overruns x h), fun x s i hi h => ?_⟩
  rcases hi with rfl | rfl
  · exact faults_of_exec (exec_ldMemVx_of_overruns h)
  · exact faults_of_exec (exec_ldVxMem_of_overruns h)

/-! ### A store and what is read after it -/

/-- Settles O48: the load reads each register's byte where the store put it. -/
theorem storeThenLoadRestoresTheRegisters : Obligations.StoreThenLoadRestoresTheRegisters := by
  intro x s t u hwf hfits hstore hmem hi
  obtain ⟨t', hstore', -, hstored, -⟩ := registersAreStored x s hwf hfits
  obtain rfl : t = t' := Host.Outcome.next.inj (hstore.symm.trans hstore')
  obtain ⟨w, hload, -, hloaded, hkept, -⟩ := registersAreLoaded x u (by rw [hi]; exact hfits)
  refine ⟨w, hload, fun r hr => ?_, hkept⟩
  rw [hloaded r hr, hmem, hi]
  exact hstored r hr

/-- Settles O49: the step leaves PC at the block just stored, whose first two bytes are V0 and V1. -/
theorem storedCodeIsFetchedNext : Obligations.StoredCodeIsFetchedNext := by
  intro x s t hwf ha hx hnext hfits hstep
  obtain ⟨u, he, hc, hstored, -, -, -, hpc, -⟩ := registersAreStored x (executeState s) hwf hfits
  obtain rfl : t = timerUpdate u := Host.Outcome.next.inj (hstep.symm.trans (step_of_completed ha he hc))
  have hat : (timerUpdate u).pc.toNat = s.i.toNat := by
    rw [timerUpdate_pc, hpc, BitVec.toNat_add]
    show (s.pc.toNat + 2) % 65536 = s.i.toNat
    omega
  have h0 : u.mem.read s.i.toNat = s.getV 0 := hstored 0 (Fin.zero_le x)
  have h1 : u.mem.read (s.i.toNat + 1) = s.getV 1 := hstored 1 hx
  refine fetchWord_eq_ok.2 ⟨by omega, ?_⟩
  rw [wordAt, hat, timerUpdate_mem, h0, h1]

end Sys2Proof.Machine

/-! SUPPORT. DXYN in its four outcomes: off the grid, over the end of memory, with a 1 bit off the grid, and drawn
(R152 to R155). -/

namespace Sys2Proof.Machine

/-! ### The path DXYN takes -/

/-- The cells the 1 bits of DXYN land on, in the order they are checked (R152). -/
def drawnCells (s : State) (x y : Reg) (n : Nat) : List (Nat × Nat) :=
  spriteCells (s.getV x).toNat (s.getV y).toNat (spriteBytes s n)

theorem mem_drawnCells_iff {s : State} {x y : Reg} {n : Nat} {p : Nat × Nat} :
    p ∈ drawnCells s x y n ↔ LitCell s x y n p.1 p.2 := mem_drawnCells

theorem drawnCells_nodup (s : State) (x y : Reg) (n : Nat) : (drawnCells s x y n).Nodup := spriteCells_nodup _ _ _

theorem exec_drwVxVyN_of_offGrid {x y : Reg} {s : State} (n : Nat)
    (h : 64 ≤ (s.getV x).toNat ∨ 32 ≤ (s.getV y).toNat) :
    exec (.drwVxVyN x y n) s = .next (complete (s.setPc (s.pc + 2))) := by
  have hoff : offGrid ((s.getV y).toNat, (s.getV x).toNat) = true := offGrid_eq_true.2 (Or.symm h)
  rw [exec, execDrwVxVyN, if_pos hoff]
  rfl

/-- With the start on the grid the memory check decides (R154). -/
theorem exec_drwVxVyN_of_onGrid {x y : Reg} {s : State} (n : Nat) (hx : (s.getV x).toNat < 64)
    (hy : (s.getV y).toNat < 32) :
    exec (.drwVxVyN x y n) s = .next (if blockOverruns s n then raiseFault (.memOutOfRange (blockLast s n)) s
      else drawCells (drawnCells s x y n) s) := by
  have hon : ¬ offGrid ((s.getV y).toNat, (s.getV x).toNat) = true := by
    rw [offGrid_eq_true]
    omega
  rw [exec, execDrwVxVyN, if_neg hon]
  rfl

theorem exec_drwVxVyN_of_overruns {x y : Reg} {n : Nat} {s : State} (hx : (s.getV x).toNat < 64)
    (hy : (s.getV y).toNat < 32) (hn : 1 ≤ n) (h : 0xFFF < s.i.toNat + n - 1) :
    exec (.drwVxVyN x y n) s = .next (raiseFault (.memOutOfRange (s.i.toNat + n - 1)) s) := by
  rw [exec_drwVxVyN_of_onGrid n hx hy, if_pos (blockOverruns_eq_true.2 ⟨hn, h⟩)]
  rfl

theorem exec_drwVxVyN_of_drawReads {x y : Reg} {n : Nat} {s : State} (h : DrawReads s x y n) :
    exec (.drwVxVyN x y n) s = .next (drawCells (drawnCells s x y n) s) := by
  obtain ⟨hx, hy, hmem⟩ := h
  rw [exec_drwVxVyN_of_onGrid n hx hy, if_neg (Bool.not_eq_true _ ▸ blockOverruns_eq_false.2 hmem)]

/-! ### The drawn path -/

/-- The state after a draw that touches `cells`, all on the grid. -/
def afterDraw (cells : List (Nat × Nat)) (s : State) : State :=
  afterWrite VF (collisionFlag s.fb cells) { s with fb := xorCells s.fb cells }

theorem afterDraw_fb (cells : List (Nat × Nat)) (s : State) : (afterDraw cells s).fb = xorCells s.fb cells := rfl

theorem afterDraw_getV_VF (cells : List (Nat × Nat)) (s : State) :
    (afterDraw cells s).getV VF = collisionFlag s.fb cells := afterWrite_getV_same _ _ _

/-- What a draw leaves unchanged: everything but the framebuffer, VF and PC. -/
theorem afterDraw_frame (cells : List (Nat × Nat)) (s : State) :
    (afterDraw cells s).pc = s.pc + 2 ∧ SameRegsBut [VF] s (afterDraw cells s) ∧ (afterDraw cells s).i = s.i ∧
      SameMem s (afterDraw cells s) ∧ SameCalls s (afterDraw cells s) ∧ SameTimers s (afterDraw cells s) ∧
      SameLatches s (afterDraw cells s) ∧ SameInputs s (afterDraw cells s) := by
  obtain ⟨hpc, hregs, hi, hmem, hcalls, htimers, -, hlatches, hinputs⟩ :=
    afterWrite_frame VF (collisionFlag s.fb cells) { s with fb := xorCells s.fb cells }
  exact ⟨hpc, hregs, hi, hmem, hcalls, htimers, hlatches, hinputs⟩

/-- No 1 bit of the sprite lands off the grid. -/
def SpriteOnGrid (s : State) (x y : Reg) (n : Nat) : Prop := ∀ r c : Nat, LitCell s x y n r c → r ≤ 31 ∧ c ≤ 63

theorem offGrid_drawnCells {s : State} {x y : Reg} {n : Nat} (h : SpriteOnGrid s x y n) :
    ∀ p ∈ drawnCells s x y n, offGrid p = false := by
  intro p hp
  have hin := h p.1 p.2 (mem_drawnCells_iff.1 hp)
  rw [← Bool.not_eq_true, offGrid_eq_true]
  omega

theorem exec_drwVxVyN_of_spriteOnGrid {x y : Reg} {n : Nat} {s : State} (h : DrawReads s x y n)
    (hg : SpriteOnGrid s x y n) : exec (.drwVxVyN x y n) s = .next (afterDraw (drawnCells s x y n) s) := by
  rw [exec_drwVxVyN_of_drawReads h, drawCells_onGrid (offGrid_drawnCells hg)]
  rfl

/-- A flag is 0 or 1. -/
theorem collisionFlag_bit (f : Framebuffer) (cells : List (Nat × Nat)) :
    (collisionFlag f cells).toNat = 0 ∨ (collisionFlag f cells).toNat = 1 := by
  rw [collisionFlag, flag_toNat]
  split <;> simp

/-- Settles O51: the cells are distinct and on the grid, so each is flipped once; the collision is read before
any is. -/
theorem drawXorsTheSprite : Obligations.DrawXorsTheSprite := by
  intro x y n s hreads hgrid
  have hcells : ∀ r c : Nat, r < 32 → c < 64 →
      (Framebuffer.cell (afterDraw (drawnCells s x y n) s).fb r c ≠ Framebuffer.cell s.fb r c ↔
        LitCell s x y n r c) := by
    intro r c _ _
    rw [afterDraw_fb, cell_xorCells (drawnCells_nodup s x y n) (offGrid_drawnCells hgrid) s.fb r c,
      ← mem_drawnCells_iff (p := (r, c))]
    by_cases hm : (r, c) ∈ drawnCells s x y n <;> simp [hm]
  have hcollision : ((afterDraw (drawnCells s x y n) s).getV VF).toNat = 1 ↔
      ∃ r c, LitCell s x y n r c ∧ Framebuffer.cell s.fb r c = true := by
    rw [afterDraw_getV_VF, collisionFlag_toNat, Prod.exists]
    simp only [mem_drawnCells_iff]
  have hbit := collisionFlag_bit s.fb (drawnCells s x y n)
  rw [← afterDraw_getV_VF] at hbit
  exact ⟨_, exec_drwVxVyN_of_spriteOnGrid hreads hgrid, afterWrite_completed _ _ _, hcells, hbit, hcollision,
    afterDraw_frame _ s⟩

/-- Settles O52: off the grid PC alone is written. -/
theorem drawFromOffTheGridDrawsNothing : Obligations.DrawFromOffTheGridDrawsNothing := fun _ _ n s h =>
  ⟨_, exec_drwVxVyN_of_offGrid n h, complete_outcome _, rfl, complete_setPc_frame _ s⟩

/-! ### The order of the checks -/

theorem drawCells_of_find {cells : List (Nat × Nat)} {p : Nat × Nat} (s : State) (h : cells.find? offGrid = some p) :
    drawCells cells s = raiseFault (.framebufferOutOfRange p.1 p.2) s := by
  rw [drawCells, h]

/-- The first cell off the grid is one cell. -/
theorem firstOffGrid_unique {s : State} {x y : Reg} {n r c r' c' : Nat} (h : FirstOffGrid s x y n r c)
    (h' : FirstOffGrid s x y n r' c') : r = r' ∧ c = c' := by
  obtain ⟨hoff, hlit, hfirst⟩ := h
  obtain ⟨hoff', hlit', hfirst'⟩ := h'
  have hle := hfirst r' c' hlit' hoff'
  have hge := hfirst' r c hlit hoff
  omega

/-- The search for a cell off the grid finds the first one (R154). -/
theorem find_drawnCells_of_firstOffGrid {s : State} {x y : Reg} {n r c : Nat} (h : FirstOffGrid s x y n r c) :
    (drawnCells s x y n).find? offGrid = some (r, c) := by
  obtain ⟨hoff, hlit, -⟩ := id h
  cases hf : (drawnCells s x y n).find? offGrid with
  | none => exact absurd (offGrid_eq_true.2 hoff) (List.find?_eq_none.1 hf (r, c) (mem_drawnCells_iff.2 hlit))
  | some p =>
    obtain ⟨hr, hc⟩ := firstOffGrid_unique (firstOffGrid_of_find hf) h
    rw [← hr, ← hc]

theorem exec_drwVxVyN_of_firstOffGrid {x y : Reg} {n r c : Nat} {s : State} (h : DrawReads s x y n)
    (hf : FirstOffGrid s x y n r c) :
    exec (.drwVxVyN x y n) s = .next (raiseFault (.framebufferOutOfRange r c) s) := by
  rw [exec_drwVxVyN_of_drawReads h, drawCells_of_find s (find_drawnCells_of_firstOffGrid hf)]

/-- A sprite that ends by column 63 and row 31 has no bit off the grid. -/
theorem spriteOnGrid_of_le {s : State} {x y : Reg} {n : Nat} (hx : (s.getV x).toNat ≤ 56)
    (hy : (s.getV y).toNat + n ≤ 32) : SpriteOnGrid s x y n := by
  rintro r c ⟨-, hr, -, hc, -⟩
  omega

/-- Settles O53: the memory check is made first, then the search finds the first cell off the grid. -/
theorem drawFaultsInOrder : Obligations.DrawFaultsInOrder := by
  intro x y n s hx hy
  refine ⟨fun hn h => faults_of_exec (exec_drwVxVyN_of_overruns hx hy hn h), fun r c hmem hlit hoff hfirst => ?_,
    fun hx' hy' => spriteOnGrid_of_le hx' hy'⟩
  exact faults_of_exec (exec_drwVxVyN_of_firstOffGrid ⟨hx, hy, hmem⟩ ⟨hoff, hlit, hfirst⟩)

/-- Either no 1 bit lands off the grid, or there is a first one that does. -/
theorem spriteOnGrid_or_firstOffGrid (s : State) (x y : Reg) (n : Nat) :
    SpriteOnGrid s x y n ∨ ∃ r c, FirstOffGrid s x y n r c := by
  cases hf : (drawnCells s x y n).find? offGrid with
  | some p => exact .inr ⟨p.1, p.2, firstOffGrid_of_find hf⟩
  | none =>
    refine .inl fun r c hlit => ?_
    have hon := List.find?_eq_none.1 hf (r, c) (mem_drawnCells_iff.2 hlit)
    rw [offGrid_eq_true] at hon
    omega

/-- The four outcomes of DXYN, in the order of its checks (R153, R154). -/
theorem drwVxVyN_cases (x y : Reg) (n : Nat) (s : State) :
    (64 ≤ (s.getV x).toNat ∨ 32 ≤ (s.getV y).toNat) ∨
    ((s.getV x).toNat < 64 ∧ (s.getV y).toNat < 32 ∧ 1 ≤ n ∧ 0xFFF < s.i.toNat + n - 1) ∨
    (DrawReads s x y n ∧ ∃ r c, FirstOffGrid s x y n r c) ∨
    (DrawReads s x y n ∧ SpriteOnGrid s x y n) := by
  by_cases hstart : 64 ≤ (s.getV x).toNat ∨ 32 ≤ (s.getV y).toNat
  · exact .inl hstart
  · obtain ⟨hx, hy⟩ : (s.getV x).toNat < 64 ∧ (s.getV y).toNat < 32 := by omega
    by_cases hover : 1 ≤ n ∧ 0xFFF < s.i.toNat + n - 1
    · exact .inr (.inl ⟨hx, hy, hover⟩)
    · have hreads : DrawReads s x y n := ⟨hx, hy, fun hn => Nat.not_lt.1 fun hgt => hover ⟨hn, hgt⟩⟩
      rcases spriteOnGrid_or_firstOffGrid s x y n with hgrid | hfirst
      · exact .inr (.inr (.inr ⟨hreads, hgrid⟩))
      · exact .inr (.inr (.inl ⟨hreads, hfirst⟩))

/-! ### The same draw twice -/

/-- A drawn path that completed found no 1 bit off the grid. -/
theorem spriteOnGrid_of_completed {x y : Reg} {n : Nat} {s t : State} (h : DrawReads s x y n)
    (he : exec (.drwVxVyN x y n) s = .next t) (hc : Completed t) : SpriteOnGrid s x y n := by
  rcases spriteOnGrid_or_firstOffGrid s x y n with hgrid | ⟨r, c, hfirst⟩
  · exact hgrid
  · exact absurd (exec_drwVxVyN_of_firstOffGrid h hfirst) (exec_ne_raiseFault_of_completed he hc)

/-- Two draws with the same operands over the same memory light the same cells. -/
theorem litCell_congr {s t : State} {x y : Reg} (hx : t.getV x = s.getV x) (hy : t.getV y = s.getV y) (hi : t.i = s.i)
    (hmem : SameMem s t) (n r c : Nat) : LitCell t x y n r c ↔ LitCell s x y n r c := by
  unfold LitCell
  rw [hx, hy, hi, hmem]

/-- Settles O54: the second draw lights the same cells, so each is flipped back; one that was 0 before the first draw is
the one the second finds at 1. -/
theorem drawTwiceRestoresTheScreen : Obligations.DrawTwiceRestoresTheScreen := by
  intro x y n s t hreads he hc hx hy
  have hgrid := spriteOnGrid_of_completed hreads he hc
  obtain ⟨t', he', -, hcells, -, -, -, -, hi, hmem, -⟩ := drawXorsTheSprite x y n s hreads hgrid
  obtain rfl : t = t' := Host.Outcome.next.inj (he.symm.trans he')
  have hlit := litCell_congr hx hy hi hmem n
  have hreads' : DrawReads t x y n := by
    unfold DrawReads
    rw [hx, hy, hi]
    exact hreads
  obtain ⟨u, heu, hcu, hcells', -, hcollision, -⟩ :=
    drawXorsTheSprite x y n t hreads' fun r c h => hgrid r c ((hlit r c).1 h)
  refine ⟨u, heu, hcu, framebuffer_ext fun r c hr hc => ?_, ?_⟩
  · have hfirst := hcells r c hr hc
    have hsecond := (hcells' r c hr hc).trans (hlit r c)
    by_cases h : LitCell s x y n r c
    · rw [Bool.eq_not.2 (hsecond.2 h), Bool.eq_not.2 (hfirst.2 h), Bool.not_not]
    · exact (not_ne_iff.1 (mt hsecond.1 h)).trans (not_ne_iff.1 (mt hfirst.1 h))
  · rw [hcollision]
    refine exists_congr fun r => exists_congr fun c => ?_
    rw [hlit]
    refine and_congr_right fun h => ?_
    obtain ⟨hr, hc⟩ := hgrid r c h
    have hflip := (hcells r c (by omega) (by omega)).2 h
    rw [Bool.eq_not.2 hflip, Bool.not_eq_true']

end Sys2Proof.Machine

/-! SUPPORT. The key skips, the wait for a key, and the writes of the timers (R161 to R166). -/

namespace Sys2Proof.Machine

/-! ### The key skips -/

theorem exec_skpVx_of_le {x : Reg} {s : State} (h : (s.getV x).toNat ≤ 15) :
    exec (.skpVx x) s = .next (complete (skipWhen (keyDown s (s.getV x).toNat) s)) := by
  rw [exec, execSkpVx, if_neg (Nat.not_lt.2 h)]

theorem exec_sknpVx_of_le {x : Reg} {s : State} (h : (s.getV x).toNat ≤ 15) :
    exec (.sknpVx x) s = .next (complete (skipWhen (!keyDown s (s.getV x).toNat) s)) := by
  rw [exec, execSknpVx, if_neg (Nat.not_lt.2 h)]

theorem exec_skpVx_of_gt {x : Reg} {s : State} (h : 15 < (s.getV x).toNat) :
    exec (.skpVx x) s = .next (raiseFault (.keyIndexOutOfRange (s.getV x)) s) := by
  rw [exec, execSkpVx, if_pos h]

theorem exec_sknpVx_of_gt {x : Reg} {s : State} (h : 15 < (s.getV x).toNat) :
    exec (.sknpVx x) s = .next (raiseFault (.keyIndexOutOfRange (s.getV x)) s) := by
  rw [exec, execSknpVx, if_pos h]

/-- Settles O55: an index up to 15 leaves the skip, which writes PC alone; one above it raises the fault. -/
theorem keySkips : Obligations.KeySkips := by
  intro x s
  refine ⟨fun h => ⟨⟨_, exec_skpVx_of_le h, complete_outcome _, skipWhen_pc s _, complete_skipWhen_frame _ s⟩,
    ⟨_, exec_sknpVx_of_le h, complete_outcome _, skipWhen_not_pc _ s, complete_skipWhen_frame _ s⟩⟩, fun i hi h => ?_⟩
  rcases hi with rfl | rfl
  · exact faults_of_exec (exec_skpVx_of_gt h)
  · exact faults_of_exec (exec_sknpVx_of_gt h)

/-! ### The wait for a key, with a key down -/

/-- With a key down FX0A writes the chosen key, as a byte, and uses up one choice (R163). -/
theorem exec_ldVxK_of_pressed (x : Reg) {s : State} (h : s.keys ≠ 0) :
    exec (.ldVxK x) s =
      .next (afterWrite x (BitVec.ofNat 8 (chooseKey (keyChoice s) (pressedKeys s))) (usePick s)) := by
  rw [exec, execLdVxK]
  cases hks : pressedKeys s with
  | nil => exact absurd (pressedKeys_eq_nil.1 hks) h
  | cons k ks => rfl

/-- The key chosen is down (R163). -/
theorem chosenKey_mem (c : Nat) {s : State} (h : s.keys ≠ 0) : chooseKey c (pressedKeys s) ∈ pressedKeys s := by
  cases hks : pressedKeys s with
  | nil => exact absurd (pressedKeys_eq_nil.1 hks) h
  | cons k ks => exact chooseKey_mem c k ks

/-- Every pressed key can be the one chosen: its position is the choice (R163). -/
theorem exists_chooseKey_eq {k : Nat} {ks : List Nat} (h : k ∈ ks) : ∃ c, chooseKey c ks = k := by
  obtain ⟨n, hn, rfl⟩ := List.mem_iff_getElem.1 h
  refine ⟨n, ?_⟩
  match ks with
  | [_] =>
    obtain rfl : n = 0 := Nat.lt_one_iff.1 hn
    rfl
  | a :: b :: ks =>
    have hmod : n % (ks.length + 2) = n := Nat.mod_eq_of_lt hn
    rw [chooseKey, hmod, List.getD_eq_getElem _ _ hn]

/-- A key's index fits a byte. -/
theorem keyIndex_toNat {k : Nat} (h : k < 16) : (BitVec.ofNat 8 k).toNat = k := by
  rw [BitVec.toNat_ofNat]
  omega

/-- Settles O56: the key written is a pressed one, and the position of a pressed key is a choice that gives it. -/
theorem keyWaitReportsAPressedKey : Obligations.KeyWaitReportsAPressedKey := by
  intro x s hs
  constructor
  · obtain ⟨hpc, hregs, hi, hmem, hcalls, htimers, hfb, hlatches, hkey, hrnd, hpick⟩ :=
      afterWrite_frame x (BitVec.ofNat 8 (chooseKey (keyChoice s) (pressedKeys s))) (usePick s)
    obtain ⟨hlt, hdown⟩ := mem_pressedKeys.1 (chosenKey_mem (keyChoice s) hs)
    refine ⟨_, exec_ldVxK_of_pressed x hs, afterWrite_completed _ _ _, ?_, ?_, hpc, hpick, hkey, hrnd, hregs, hi, hmem,
      hcalls, htimers, hfb, hlatches⟩
    · rw [afterWrite_getV_same, keyIndex_toNat hlt]
      exact hlt
    · rw [afterWrite_getV_same, keyIndex_toNat hlt]
      exact hdown
  · intro k hk
    have hlt : k < 16 := BitVec.lt_of_getLsbD hk
    obtain ⟨c, hc⟩ := exists_chooseKey_eq (mem_pressedKeys.2 ⟨hlt, hk⟩)
    refine ⟨c, _, exec_ldVxK_of_pressed x (s := { s with pickInput := ⟨[c], 0⟩ }) hs, ?_⟩
    rw [afterWrite_getV_same]
    exact (congrArg (fun j => (BitVec.ofNat 8 j).toNat) hc).trans (keyIndex_toNat hlt)

/-! ### The wait for a key, with no key down -/

theorem exec_ldVxK_of_none (x : Reg) {s : State} (h : s.keys = 0) : exec (.ldVxK x) s = .next (stall s) := by
  rw [exec, execLdVxK, pressedKeys_eq_nil.2 h]

/-- What stands at PC, in a block that can step, is part of the block. -/
theorem atInstr_of_sameBlock {s t : State} {i : Instr} (ha : AtInstr s i) (h : SameBlock s t) : AtInstr t i := by
  obtain ⟨-, -, hpc, -, -, hfault, hmem, -, hinit⟩ := h
  unfold AtInstr
  rw [hpc, hfault, hmem, hinit]
  exact ha

/-- At FX0A with no key presented the step stalls, and the flags presented for it are used up (R163, R195). -/
theorem step_of_ldVxK_without_key {x : Reg} {s : State} {k : Nat} (ha : AtInstr s (.ldVxK x))
    (hkeys : s.keyInput.given = List.replicate (k + 1) 0) :
    ∃ t, step s = .next t ∧ t.keyInput.given = List.replicate k 0 ∧ StalledSince s t := by
  have hnone : (executeState s).keys = 0 := by
    show s.keyInput.value Config.keys = 0
    rw [Input.value, hkeys]
    rfl
  refine ⟨_, step_of_atInstr ha (exec_ldVxK_of_none x hnone), ?_, sameBlock_concludeStep_stall s, rfl, rfl⟩
  show s.keyInput.given.tail = List.replicate k 0
  rw [hkeys]
  rfl

/-- By induction on the samples for which no key is presented. -/
theorem run_of_ldVxK_without_key {x : Reg} (k : Nat) : ∀ s : State, AtInstr s (.ldVxK x) →
    s.keyInput.given = List.replicate (k + 1) 0 →
    ∃ t, Sys2Proof.core.run (k + 1) s = .next t ∧ AtInstr t (.ldVxK x) ∧ StalledSince s t := by
  induction k with
  | zero =>
    intro s ha hkeys
    obtain ⟨t, he, -, hblock, hend⟩ := step_of_ldVxK_without_key ha hkeys
    exact ⟨t, run_succ_of_next he, atInstr_of_sameBlock ha hblock, hblock, hend⟩
  | succ k ih =>
    intro s ha hkeys
    obtain ⟨t, he, hkeys', hblock, hend⟩ := step_of_ldVxK_without_key ha hkeys
    obtain ⟨u, hrun, hau, htu⟩ := ih t (atInstr_of_sameBlock ha hblock) hkeys'
    exact ⟨u, (run_succ_of_next he).trans hrun, hau, stalledSince_trans ⟨hblock, hend⟩ htu⟩

/-- Settles O57: the invocation presents no key for as many samples as it makes steps, and each of them stalls. -/
theorem keyWaitStallsWithoutAKey : Obligations.KeyWaitStallsWithoutAKey := by
  intro x s k ha
  obtain ⟨t, hrun, hat, hblock, hbeep, hend⟩ := run_of_ldVxK_without_key k (presentKeys (k + 1) 0 s) ha rfl
  exact ⟨t, hrun, hat, hblock, hend, hbeep⟩

/-! ### The writes of the timers -/

/-- The state after an instruction that leaves `d` in DT and `t` in ST, moves PC past itself and completes. -/
def afterSetTimers (d t : Byte) (s : State) : State := complete (advance { s with dt := d, st := t })

theorem afterSetTimers_completed (d t : Byte) (s : State) : Completed (afterSetTimers d t s) := complete_outcome _

/-- What such an instruction leaves unchanged: everything but the timers and PC. -/
theorem afterSetTimers_frame (d t : Byte) (s : State) :
    SameRegsBut [] s (afterSetTimers d t s) ∧ (afterSetTimers d t s).i = s.i ∧ SameMem s (afterSetTimers d t s) ∧
      SameCalls s (afterSetTimers d t s) ∧ (afterSetTimers d t s).fb = s.fb ∧ SameLatches s (afterSetTimers d t s) ∧
      SameInputs s (afterSetTimers d t s) := by
  have hregs : SameRegsBut [] s (afterSetTimers d t s) := fun _ _ => rfl
  have hmem : SameMem s (afterSetTimers d t s) := fun _ => rfl
  have hcalls : SameCalls s (afterSetTimers d t s) := by simp [SameCalls, afterSetTimers]
  have hlatches : SameLatches s (afterSetTimers d t s) := by simp [SameLatches, afterSetTimers]
  have hinputs : SameInputs s (afterSetTimers d t s) := by simp [SameInputs, afterSetTimers]
  exact ⟨hregs, rfl, hmem, hcalls, rfl, hlatches, hinputs⟩

theorem exec_ldDtVx (x : Reg) (s : State) : exec (.ldDtVx x) s = .next (afterSetTimers (s.getV x) s.st s) := rfl

theorem exec_ldStVx (x : Reg) (s : State) : exec (.ldStVx x) s = .next (afterSetTimers s.dt (s.getV x) s) := rfl

/-- The step beeps exactly when its instruction left ST at 1 (R183). -/
theorem timerUpdate_beep_iff (s : State) : (timerUpdate s).beep = true ↔ s.st.toNat = 1 := by
  rw [timerUpdate_beep, decide_eq_true_iff, BitVec.toNat_eq]
  rfl

/-- Settles O59: each writes one timer, and the timer update counts down and beeps by the value written. -/
theorem timersAreWritten : Obligations.TimersAreWritten := fun x s =>
  ⟨⟨_, exec_ldDtVx x s, afterSetTimers_completed _ _ s, rfl, rfl, rfl, countDown_toNat (s.getV x),
      afterSetTimers_frame _ _ s⟩,
    ⟨_, exec_ldStVx x s, afterSetTimers_completed _ _ s, rfl, rfl, rfl, countDown_toNat (s.getV x),
      timerUpdate_beep_iff _, afterSetTimers_frame _ _ s⟩⟩

end Sys2Proof.Machine

/-! SUPPORT. What a completed instruction can have written, said once for all 34: each part of the block, with the
instructions that write it (R21, R28, R32, R39, R53, R183). -/

namespace Sys2Proof.Machine

/-! ### The parts of the block and their writers -/

/-- DT as the instruction leaves it: FX15 loads it (R165). -/
def dtLoaded (i : Instr) (s : State) : Byte :=
  match i with
  | .ldDtVx x => s.getV x
  | _ => s.dt

/-- ST as the instruction leaves it: FX18 loads it (R166). -/
def stLoaded (i : Instr) (s : State) : Byte :=
  match i with
  | .ldStVx x => s.getV x
  | _ => s.st

/-- The instructions that can write VF: the flag writers, those whose destination is VF, and FX65 with X = 15 (R28). -/
def WritesFlag : Instr → Prop
  | .addVxVy _ _ | .subVxVy _ _ | .shrVx _ _ | .subnVxVy _ _ | .shlVx _ _ | .addIVx _ | .drwVxVyN _ _ _ => True
  | .ldVxNn x _ | .addVxNn x _ | .rndVxNn x _ | .ldVxVy x _ | .orVxVy x _ | .andVxVy x _ | .xorVxVy x _
  | .ldVxDt x | .ldVxK x | .ldVxMem x => x = VF
  | .cls | .ret | .jpNnn _ | .callNnn _ | .seVxNn _ _ | .sneVxNn _ _ | .seVxVy _ _ | .sneVxVy _ _ | .ldINnn _
  | .jpV0Nnn _ | .skpVx _ | .sknpVx _ | .ldDtVx _ | .ldStVx _ | .ldFVx _ | .ldBVx _ | .ldMemVx _ => False

/-- Memory is unchanged, or FX33 or FX55 stored its block, which lies in memory (R53). -/
def MemoryWritten (i : Instr) (s u : State) : Prop :=
  u.mem = s.mem ∨
  (∃ x, i = .ldBVx x ∧ s.i.toNat + 2 ≤ 0xFFF ∧ ∃ bs, bs.length = 3 ∧ u.mem = storeBytes s.mem s.i.toNat bs) ∨
  (∃ x, i = .ldMemVx x ∧ s.i.toNat + x.val ≤ 0xFFF ∧
    ∃ bs, bs.length = x.val + 1 ∧ u.mem = storeBytes s.mem s.i.toNat bs)

/-- SP and the call stack are unchanged, or 2NNN pushed PC, or 00EE took an entry off (R32). -/
def CallsWritten (i : Instr) (s u : State) : Prop :=
  (u.sp = s.sp ∧ u.stack = s.stack) ∨
  ((∃ nnn, i = .callNnn nnn) ∧ ∃ hs : s.sp.val < 16, u.sp.val = s.sp.val + 1 ∧
    u.stack = s.stack.set s.sp.val s.pc hs) ∨
  (i = .ret ∧ u.sp.val + 1 = s.sp.val ∧ u.stack = s.stack)

/-- From `s` the completed instruction `i` has left `u`. -/
structure CompletedEffect (i : Instr) (s u : State) : Prop where
  initialised : u.initialised = s.initialised
  fault : u.fault = s.fault
  dt : u.dt = dtLoaded i s
  st : u.st = stLoaded i s
  memory : MemoryWritten i s u
  screen : u.fb = s.fb ∨ i = .cls ∨ ∃ x y n, i = .drwVxVyN x y n
  calls : CallsWritten i s u
  flag : u.getV VF = s.getV VF ∨ WritesFlag i

/-! ### The effect of each instruction -/

/-- A write to VX leaves VF, or VX is VF. -/
theorem getV_VF_setV_or {P : Prop} {x : Reg} (b : Byte) (s : State) (h : x = VF → P) :
    (s.setV x b).getV VF = s.getV VF ∨ P := by
  by_cases hx : x = VF
  · exact .inr (h hx)
  · exact .inl (getV_setV_other s x VF b hx)

theorem completedEffect_ret {s u : State} (h : exec .ret s = .next u) (hc : Completed u) :
    CompletedEffect .ret s u := by
  have hs : 0 < s.sp.val := Nat.pos_of_ne_zero fun h0 =>
    exec_ne_raiseFault_of_completed h hc (exec_ret_of_empty (Fin.ext h0))
  obtain rfl := Host.Outcome.next.inj (h.symm.trans (exec_ret_of_pos hs))
  exact ⟨rfl, rfl, rfl, rfl, .inl rfl, .inl rfl, .inr (.inr ⟨rfl, Nat.sub_add_cancel hs, rfl⟩), .inl rfl⟩

theorem completedEffect_callNnn {nnn : Addr} {s u : State} (h : exec (.callNnn nnn) s = .next u) (hc : Completed u) :
    CompletedEffect (.callNnn nnn) s u := by
  have hs : s.sp.val < 16 := sp_lt_of_ne_full fun hfull =>
    exec_ne_raiseFault_of_completed h hc (exec_callNnn_of_full nnn hfull)
  obtain rfl := Host.Outcome.next.inj (h.symm.trans (exec_callNnn_of_lt nnn hs))
  exact ⟨rfl, rfl, rfl, rfl, .inl rfl, .inl rfl, .inr (.inl ⟨⟨nnn, rfl⟩, hs, rfl, rfl⟩), .inl rfl⟩

theorem completedEffect_subVxVy {x y : Reg} {s u : State} (h : exec (.subVxVy x y) s = .next u) :
    CompletedEffect (.subVxVy x y) s u := by
  by_cases hb : (s.getV x).toNat < (s.getV y).toNat
  · obtain rfl := Host.Outcome.next.inj (h.symm.trans (exec_subVxVy_of_borrow hb))
    exact ⟨rfl, rfl, rfl, rfl, .inl rfl, .inl rfl, .inl ⟨rfl, rfl⟩, .inr trivial⟩
  · obtain rfl := Host.Outcome.next.inj (h.symm.trans (exec_subVxVy_of_le hb))
    exact ⟨rfl, rfl, rfl, rfl, .inl rfl, .inl rfl, .inl ⟨rfl, rfl⟩, .inr trivial⟩

theorem completedEffect_ldBVx {x : Reg} {s u : State} (h : exec (.ldBVx x) s = .next u) (hc : Completed u) :
    CompletedEffect (.ldBVx x) s u := by
  have hfits : s.i.toNat + 2 ≤ 0xFFF := Nat.not_lt.1 fun hover =>
    exec_ne_raiseFault_of_completed h hc (exec_ldBVx_of_overruns x hover)
  obtain rfl := Host.Outcome.next.inj (h.symm.trans (exec_ldBVx_of_fits x hfits))
  exact ⟨rfl, rfl, rfl, rfl, .inr (.inl ⟨x, rfl, hfits, _, decimalDigits_length _, rfl⟩), .inl rfl, .inl ⟨rfl, rfl⟩,
    .inl rfl⟩

theorem completedEffect_ldMemVx {x : Reg} {s u : State} (h : exec (.ldMemVx x) s = .next u) (hc : Completed u) :
    CompletedEffect (.ldMemVx x) s u := by
  have hfits : s.i.toNat + x.val ≤ 0xFFF := Nat.not_lt.1 fun hover =>
    exec_ne_raiseFault_of_completed h hc (exec_ldMemVx_of_overruns hover)
  obtain rfl := Host.Outcome.next.inj (h.symm.trans (exec_ldMemVx_of_fits hfits))
  exact ⟨rfl, rfl, rfl, rfl, .inr (.inr ⟨x, rfl, hfits, _, firstRegs_length s x, rfl⟩), .inl rfl, .inl ⟨rfl, rfl⟩,
    .inl rfl⟩

/-- FX65 reaches VF only with X = 15. -/
theorem afterLoad_getV_VF_or (s : State) (x : Reg) (w : Word) :
    (afterLoad (loadedRegs s x) w s).getV VF = s.getV VF ∨ x = VF := by
  rw [afterLoad_getV, getElem_loadedRegs]
  by_cases hx : VF ≤ x
  · exact .inr (Fin.le_antisymm (Fin.le_last x) hx)
  · exact .inl (if_neg hx)

theorem completedEffect_ldVxMem {x : Reg} {s u : State} (h : exec (.ldVxMem x) s = .next u) (hc : Completed u) :
    CompletedEffect (.ldVxMem x) s u := by
  have hfits : s.i.toNat + x.val ≤ 0xFFF := Nat.not_lt.1 fun hover =>
    exec_ne_raiseFault_of_completed h hc (exec_ldVxMem_of_overruns hover)
  have hflag := afterLoad_getV_VF_or s x (postIndex s x)
  obtain rfl := Host.Outcome.next.inj (h.symm.trans (exec_ldVxMem_of_fits hfits))
  -- Of the registers loaded only VF matters here.
  generalize loadedRegs s x = v at hflag ⊢
  exact ⟨rfl, rfl, rfl, rfl, .inl rfl, .inl rfl, .inl ⟨rfl, rfl⟩, hflag⟩

/-- The two key skips write PC alone. -/
theorem completedEffect_keySkip {x : Reg} {i : Instr} (hi : i = .skpVx x ∨ i = .sknpVx x) {s u : State}
    (h : exec i s = .next u) (hc : Completed u) : CompletedEffect i s u := by
  rcases hi with rfl | rfl
  · have hle : (s.getV x).toNat ≤ 15 := Nat.not_lt.1 fun hgt =>
      exec_ne_raiseFault_of_completed h hc (exec_skpVx_of_gt hgt)
    obtain rfl := Host.Outcome.next.inj (h.symm.trans (exec_skpVx_of_le hle))
    exact ⟨rfl, rfl, rfl, rfl, .inl rfl, .inl rfl, .inl ⟨rfl, rfl⟩, .inl rfl⟩
  · have hle : (s.getV x).toNat ≤ 15 := Nat.not_lt.1 fun hgt =>
      exec_ne_raiseFault_of_completed h hc (exec_sknpVx_of_gt hgt)
    obtain rfl := Host.Outcome.next.inj (h.symm.trans (exec_sknpVx_of_le hle))
    exact ⟨rfl, rfl, rfl, rfl, .inl rfl, .inl rfl, .inl ⟨rfl, rfl⟩, .inl rfl⟩

theorem completedEffect_ldVxK {x : Reg} {s u : State} (h : exec (.ldVxK x) s = .next u) (hc : Completed u) :
    CompletedEffect (.ldVxK x) s u := by
  by_cases hk : s.keys = 0
  · obtain rfl := Host.Outcome.next.inj (h.symm.trans (exec_ldVxK_of_none x hk))
    cases hc
  · obtain rfl := Host.Outcome.next.inj (h.symm.trans (exec_ldVxK_of_pressed x hk))
    exact ⟨rfl, rfl, rfl, rfl, .inl rfl, .inl rfl, .inl ⟨rfl, rfl⟩, getV_VF_setV_or _ (usePick s) id⟩

theorem completedEffect_drwVxVyN {x y : Reg} {n : Nat} {s u : State} (h : exec (.drwVxVyN x y n) s = .next u)
    (hc : Completed u) : CompletedEffect (.drwVxVyN x y n) s u := by
  have hscreen : ∀ P : Prop, P ∨ Instr.drwVxVyN x y n = .cls ∨ ∃ x' y' n', Instr.drwVxVyN x y n = .drwVxVyN x' y' n' :=
    fun _ => .inr (.inr ⟨x, y, n, rfl⟩)
  rcases drwVxVyN_cases x y n s with hoff | ⟨hx, hy, hn, hover⟩ | ⟨hreads, r, c, hfirst⟩ | ⟨hreads, hgrid⟩
  · obtain rfl := Host.Outcome.next.inj (h.symm.trans (exec_drwVxVyN_of_offGrid n hoff))
    exact ⟨rfl, rfl, rfl, rfl, .inl rfl, hscreen _, .inl ⟨rfl, rfl⟩, .inr trivial⟩
  · exact absurd (exec_drwVxVyN_of_overruns hx hy hn hover) (exec_ne_raiseFault_of_completed h hc)
  · exact absurd (exec_drwVxVyN_of_firstOffGrid hreads hfirst) (exec_ne_raiseFault_of_completed h hc)
  · obtain rfl := Host.Outcome.next.inj (h.symm.trans (exec_drwVxVyN_of_spriteOnGrid hreads hgrid))
    exact ⟨rfl, rfl, rfl, rfl, .inl rfl, hscreen _, .inl ⟨rfl, rfl⟩, .inr trivial⟩

/-- Every instruction that completes writes only what its rule names. -/
theorem exec_completedEffect {i : Instr} {s u : State} (h : exec i s = .next u) (hc : Completed u) :
    CompletedEffect i s u := by
  cases i with
  | ret => exact completedEffect_ret h hc
  | callNnn nnn => exact completedEffect_callNnn h hc
  | subVxVy x y => exact completedEffect_subVxVy h
  | ldBVx x => exact completedEffect_ldBVx h hc
  | ldMemVx x => exact completedEffect_ldMemVx h hc
  | ldVxMem x => exact completedEffect_ldVxMem h hc
  | skpVx x => exact completedEffect_keySkip (.inl rfl) h hc
  | sknpVx x => exact completedEffect_keySkip (.inr rfl) h hc
  | ldVxK x => exact completedEffect_ldVxK h hc
  | drwVxVyN x y n => exact completedEffect_drwVxVyN h hc
  | cls =>
    obtain rfl := Host.Outcome.next.inj h
    exact ⟨rfl, rfl, rfl, rfl, .inl rfl, .inr (.inl rfl), .inl ⟨rfl, rfl⟩, .inl rfl⟩
  | addVxVy x y | shrVx x y | subnVxVy x y | shlVx x y | addIVx x =>
    obtain rfl := Host.Outcome.next.inj h
    exact ⟨rfl, rfl, rfl, rfl, .inl rfl, .inl rfl, .inl ⟨rfl, rfl⟩, .inr trivial⟩
  | ldVxNn x nn | addVxNn x nn | ldVxVy x y | orVxVy x y | andVxVy x y | xorVxVy x y | ldVxDt x =>
    obtain rfl := Host.Outcome.next.inj h
    exact ⟨rfl, rfl, rfl, rfl, .inl rfl, .inl rfl, .inl ⟨rfl, rfl⟩, getV_VF_setV_or _ s id⟩
  | rndVxNn x nn =>
    obtain rfl := Host.Outcome.next.inj h
    exact ⟨rfl, rfl, rfl, rfl, .inl rfl, .inl rfl, .inl ⟨rfl, rfl⟩, getV_VF_setV_or _ (useRandom s) id⟩
  | jpNnn nnn | jpV0Nnn nnn | ldINnn nnn | seVxNn x nn | sneVxNn x nn | seVxVy x y | sneVxVy x y | ldDtVx x | ldStVx x
  | ldFVx x =>
    obtain rfl := Host.Outcome.next.inj h
    exact ⟨rfl, rfl, rfl, rfl, .inl rfl, .inl rfl, .inl ⟨rfl, rfl⟩, .inl rfl⟩

/-- Everything that a step can leave of the block (R95): the effect of a completed instruction, seen from the state
before the step, whose operands are those of the state it executes on; or a stall; or the state before it with FAULT
set. -/
theorem step_effect_cases {s t : State} (h : step s = .next t) :
    (∃ i u, AtInstr s i ∧ t.outcome = some .completed ∧ t = timerUpdate u ∧ CompletedEffect i s u ∧ PcAfter i s t) ∨
    (t.outcome = some .stalled ∧ SameBlock s t ∧ t.beep = false) ∨
    (s.fault = none ∧ ∃ r, t =
      { s with fault := some r, beep := false, outcome := some .faulted, keyInput := s.keyInput.next }) := by
  rcases step_next_cases h with ⟨i, u, ha, he, hc, rfl⟩ | hrest
  · obtain ⟨hinit, hfault, hdt, hst, hmem, hfb, hcalls, hflag⟩ := exec_completedEffect he hc
    exact .inl ⟨i, u, ha, hc, rfl, ⟨hinit, hfault, hdt, hst, hmem, hfb, hcalls, hflag⟩, 
      pcAfter_of_executeState (exec_pcAfter he hc)⟩
  · exact .inr hrest

end Sys2Proof.Machine

/-! SUPPORT. The step: how it ends, what it writes, when it faults, and the invariant it keeps (R26, R90 to R97, R170 to
R185). -/

namespace Sys2Proof.Machine

/-! ### The ends of a step -/

/-- Settles O9: the step is the instruction on the state with the keys sampled and IR latched, and then the end of the
step by the instruction's outcome. -/
theorem stepRunsTheDecodedInstruction : Obligations.StepRunsTheDecodedInstruction := by
  intro s u i ha he
  have hstep : step s = .next (concludeStep s u) := step_of_atInstr ha he
  refine ⟨fun hc => ?_, fun hstall => ?_, fun hfault => ?_⟩
  · rw [hstep, concludeStep_completed hc]
  · refine ⟨_, ?_, hstep.trans (congrArg _ (concludeStep_stalled hstall))⟩
    split
    · exact .inl rfl
    · exact .inr rfl
  · rw [hstep, concludeStep_faulted hfault]

theorem step_of_fetchFault {s : State} (hi : s.initialised = true) (hf : s.fault = none) (hpc : 0xFFE < s.pc.toNat) :
    step s = .next (concludeStep s (raiseFault (.fetchOutOfRange s.pc) (sampleKeys s))) := by
  rcases step_cases s with ⟨h, -⟩ | ⟨-, h, -⟩ | ⟨-, -, -, e⟩ | ⟨-, -, h, -⟩ | ⟨-, -, h, -⟩
  · exact absurd hi (by simp [h])
  · exact absurd hf h
  · exact e
  · omega
  · omega

/-- A step that faulted leaves all of the block but FAULT (R178). -/
theorem sameBlock_faulted (s : State) (r : FaultRecord) (q : Input (BitVec 16)) :
    SameBlock { s with fault := some r }
      { s with fault := some r, beep := false, outcome := some .faulted, keyInput := q } :=
  ⟨rfl, rfl, rfl, ⟨rfl, rfl⟩, ⟨rfl, rfl⟩, rfl, rfl, rfl, rfl⟩

/-- Settles O11: the fetch raises its fault on the state with the keys sampled, and the end of the step rolls it back to
the state before with FAULT set. -/
theorem fetchAboveMemoryFaults : Obligations.FetchAboveMemoryFaults := by
  intro s hi hf hpc
  exact ⟨_, step_of_fetchFault hi hf hpc, rfl, sameBlock_faulted s _ _, rfl⟩

theorem step_of_halted {s : State} (hi : s.initialised = true) (hh : Halted s) : step s = .next (stall s) := by
  rcases step_cases s with ⟨h, -⟩ | ⟨-, -, e⟩ | ⟨-, h, -⟩ | ⟨-, h, -⟩ | ⟨-, h, -⟩
  · exact absurd hi (by simp [h])
  · exact e
  · exact absurd h hh
  · exact absurd h hh
  · exact absurd h hh

/-- From `s`, steps of a halted block have led to `t`: the block, the key sample and IR are the same, with no beep
(R97, R180). -/
def HaltedSince (s t : State) : Prop := SameBlock s t ∧ t.keys = s.keys ∧ t.ir = s.ir ∧ t.beep = false

theorem haltedSince_trans {s t u : State} (hst : HaltedSince s t) (htu : HaltedSince t u) : HaltedSince s u := by
  obtain ⟨hb, hk, hir, -⟩ := hst
  obtain ⟨hb', hk', hir', hbeep⟩ := htu
  exact ⟨sameBlock_trans hb hb', hk'.trans hk, hir'.trans hir, hbeep⟩

theorem haltedSince_stall (s : State) : HaltedSince s (stall s) :=
  ⟨⟨rfl, rfl, rfl, ⟨rfl, rfl⟩, ⟨rfl, rfl⟩, rfl, rfl, rfl, rfl⟩, rfl, rfl, rfl⟩

/-- Settles O12: each step is a stall, which keeps the halt, and so does every run. -/
theorem haltedBlockStaysHalted : Obligations.HaltedBlockStaysHalted := by
  intro s k hi hh
  obtain ⟨t, hrun, ⟨-, hht⟩, hsince⟩ :=
    run_of_step_keeps (P := fun s => s.initialised = true ∧ Halted s) (R := HaltedSince) haltedSince_trans
      (fun s ⟨hi, hh⟩ => ⟨stall s, step_of_halted hi hh, ⟨hi, hh⟩, haltedSince_stall s⟩) k s ⟨hi, hh⟩
  exact ⟨t, hrun, hht, hsince⟩

/-- Settles O13: of the ends of a step only the fault leaves FAULT set, and it restores the rest. -/
theorem faultedStepChangesOnlyFault : Obligations.FaultedStepChangesOnlyFault := by
  intro s t hf h hft
  rcases step_effect_cases h with ⟨i, u, -, -, rfl, heffect, -⟩ | ⟨-, hblock, -⟩ | ⟨-, r, rfl⟩
  · exact absurd (heffect.fault.trans hf) hft
  · obtain ⟨-, -, -, -, -, hfault, -⟩ := hblock
    exact absurd (hfault.trans hf) hft
  · exact ⟨sameBlock_faulted s r _, rfl, rfl, rfl, rfl⟩

/-- After cold reset every step answers a next state (R90). -/
theorem step_answers {s : State} (hi : s.initialised = true) : ∃ t, step s = .next t := by
  rcases step_cases s with ⟨h, -⟩ | ⟨-, -, e⟩ | ⟨-, -, -, e⟩ | ⟨-, -, -, -, e⟩ | ⟨-, -, -, i, -, e⟩
  · exact absurd hi (by simp [h])
  · exact ⟨_, e⟩
  · exact ⟨_, e⟩
  · exact ⟨_, e⟩
  · obtain ⟨u, he, -⟩ := exec_endsWell i (executeState s)
    exact ⟨concludeStep s u, by rw [e, he]; rfl⟩

/-- Settles O14: the step answers, and a completed instruction leaves FAULT as it was, which is none. -/
theorem everyStepEndsInOneOfThreeWays : Obligations.EveryStepEndsInOneOfThreeWays := by
  intro s hi
  obtain ⟨t, h⟩ := step_answers hi
  refine ⟨t, h, ?_⟩
  rcases step_effect_cases h with ⟨i, u, ⟨-, hf, -⟩, hc, rfl, heffect, -⟩ | hstall | ⟨hf, r, rfl⟩
  · exact .inl ⟨hc, hf, heffect.fault.trans hf⟩
  · exact .inr (.inl hstall)
  · exact .inr (.inr ⟨rfl, hf, by simp, rfl⟩)

/-! ### The timers -/

/-- One instruction stands at PC. -/
theorem atInstr_unique {s : State} {i j : Instr} (hi : AtInstr s i) (hj : AtInstr s j) : i = j := by
  obtain ⟨-, -, -, hdi⟩ := atInstr_iff.1 hi
  obtain ⟨-, -, -, hdj⟩ := atInstr_iff.1 hj
  exact Except.ok.inj (hdi.symm.trans hdj)

/-- Settles O16: the timer update counts down and beeps by what the instruction left, which is VX where it loads the
timer and the old value where it does not; no other end of a step moves a timer. -/
theorem timersCountCompletedSteps : Obligations.TimersCountCompletedSteps := by
  intro s t h
  rcases step_effect_cases h with
    ⟨i, u, ha, hc, rfl, heffect, -⟩ | ⟨hend, ⟨-, -, -, -, htimers, -⟩, hbeep⟩ | ⟨-, r, rfl⟩
  · refine ⟨fun hn => absurd hc hn, fun j hj _ => ?_⟩
    obtain rfl := atInstr_unique ha hj
    have hbeep : (timerUpdate u).beep = true ↔ u.st = 1 := by rw [timerUpdate_beep, decide_eq_true_iff]
    rw [timerUpdate_dt, timerUpdate_st, countDown_toNat, countDown_toNat, hbeep, heffect.dt, heffect.st]
    exact ⟨rfl, rfl, Iff.rfl⟩
  · exact ⟨fun _ => ⟨htimers, hbeep⟩, fun _ _ hc => absurd (hend.symm.trans hc) (by simp)⟩
  · exact ⟨fun _ => ⟨⟨rfl, rfl⟩, rfl⟩, fun _ _ hc => by simp at hc⟩

/-! ### The invariant -/

/-- Adding 2 to an address that was fetched from stays at or below 0x1000. -/
theorem add_two_toNat_le {w : Word} (h : w.toNat ≤ 0xFFE) : (w + 2).toNat ≤ 0x10FE := by bv_omega

/-- Adding 4 to an address that was fetched from stays at or below 0x1002. -/
theorem add_four_toNat_le {w : Word} (h : w.toNat ≤ 0xFFE) : (w + 4).toNat ≤ 0x10FE := by bv_omega

/-- Every PC of R25's table is at most 0x10FE, the largest target of BNNN (R26). -/
theorem pcAfter_toNat_le {i : Instr} {s t : State} (hpc : s.pc.toNat ≤ 0xFFE)
    (hstack : ∀ k : Fin 16, k.val < s.sp.val → (s.stack[k]).toNat ≤ 0xFFE) (h : PcAfter i s t) :
    t.pc.toNat ≤ 0x10FE := by
  have htwo := add_two_toNat_le hpc
  have hfour := add_four_toNat_le hpc
  have hskip : ∀ (c : Prop) [Decidable c] (v w : Word), v.toNat ≤ 0x10FE → w.toNat ≤ 0x10FE →
      (if c then v else w).toNat ≤ 0x10FE := by
    intro c _ v w hv hw
    split <;> assumption
  cases i with
  | jpNnn nnn | callNnn nnn =>
    have hlt := nnn.isLt
    have htarget : t.pc.toNat = nnn.toNat := h
    omega
  | jpV0Nnn nnn =>
    have hlt := nnn.isLt
    have hltv := (s.getV 0).isLt
    have htarget : t.pc.toNat = nnn.toNat + (s.getV 0).toNat := h
    omega
  | ret =>
    obtain ⟨k, hk, htarget⟩ := h
    rw [htarget]
    exact add_two_toNat_le (hstack k (by omega))
  | seVxNn x nn => exact (congrArg BitVec.toNat h).trans_le (hskip _ _ _ hfour htwo)
  | seVxVy x y => exact (congrArg BitVec.toNat h).trans_le (hskip _ _ _ hfour htwo)
  | skpVx x => exact (congrArg BitVec.toNat h).trans_le (hskip _ _ _ hfour htwo)
  | sneVxNn x nn => exact (congrArg BitVec.toNat h).trans_le (hskip _ _ _ htwo hfour)
  | sneVxVy x y => exact (congrArg BitVec.toNat h).trans_le (hskip _ _ _ htwo hfour)
  | sknpVx x => exact (congrArg BitVec.toNat h).trans_le (hskip _ _ _ htwo hfour)
  | _ => exact (congrArg BitVec.toNat h).trans_le htwo

/-- What an instruction writes to memory keeps the canonical form (R38). -/
theorem MemoryWritten.wf {i : Instr} {s u : State} (h : MemoryWritten i s u) (hwf : s.mem.wf = true) :
    u.mem.wf = true := by
  rcases h with e | ⟨x, -, hfits, bs, hlen, e⟩ | ⟨x, -, hfits, bs, hlen, e⟩ <;> rw [e]
  · exact hwf
  · exact storeBytes_wf (by omega) hwf
  · exact storeBytes_wf (by omega) hwf

/-- Entries in use stay addresses that were fetched from: the call pushes the PC it was fetched from (R31). -/
theorem CallsWritten.stack_le {i : Instr} {s u : State} (h : CallsWritten i s u) (hpc : s.pc.toNat ≤ 0xFFE)
    (hstack : ∀ k : Fin 16, k.val < s.sp.val → (s.stack[k]).toNat ≤ 0xFFE) :
    ∀ k : Fin 16, k.val < u.sp.val → (u.stack[k]).toNat ≤ 0xFFE := by
  intro k hk
  rcases h with ⟨hsp, e⟩ | ⟨-, hs, hsp, e⟩ | ⟨-, hsp, e⟩ <;> rw [e]
  · exact hstack k (hsp ▸ hk)
  · rw [Fin.getElem_fin, Vector.getElem_set]
    split
    · exact hpc
    · exact hstack k (by omega)
  · exact hstack k (by omega)

/-- The invariant speaks of the reset latch, memory, PC and the call stack alone. -/
theorem inv_of_same {s t : State} (h : Inv s) (hinit : t.initialised = s.initialised) (hmem : t.mem = s.mem)
    (hpc : t.pc = s.pc) (hcalls : SameCalls s t) : Inv t := by
  obtain ⟨hsp, hstack⟩ := hcalls
  refine ⟨hinit.trans h.initialised, hmem ▸ h.memory, hpc ▸ h.pc, fun k hk => ?_⟩
  rw [hstack]
  exact h.stack k (hsp ▸ hk)

/-- Settles O18: a completed instruction writes memory, the call stack and PC only as its rule says, each within its
bound; the other ends of a step leave all three. -/
theorem invariantKeptByEveryStep : Obligations.InvariantKeptByEveryStep := by
  intro s t hs h
  rcases step_effect_cases h with ⟨i, u, ha, -, rfl, heffect, hpc⟩ | ⟨-, hblock, -⟩ | ⟨-, r, rfl⟩
  · obtain ⟨-, -, hfetched, -⟩ := ha
    exact ⟨heffect.initialised.trans hs.initialised, heffect.memory.wf hs.memory,
      pcAfter_toNat_le hfetched hs.stack hpc, heffect.calls.stack_le hfetched hs.stack⟩
  · obtain ⟨-, -, hpc, hcalls, -, -, hmem, -, hinit⟩ := hblock
    exact inv_of_same hs hinit hmem hpc hcalls
  · exact inv_of_same hs rfl rfl rfl ⟨rfl, rfl⟩

/-! ### What a step can write -/

/-- Settles O21: memory is written by a completed FX33 or FX55 alone, whose block lies in memory. -/
theorem onlyStoresWriteMemory : Obligations.OnlyStoresWriteMemory := by
  intro s t h
  rcases step_effect_cases h with ⟨i, u, ha, -, rfl, heffect, -⟩ | ⟨-, ⟨-, -, -, -, -, -, hmem, -⟩, -⟩ | ⟨-, r, rfl⟩
  · have houtside : ∀ bs : List Byte, u.mem = storeBytes s.mem s.i.toNat bs →
        SameMemOutside s.i.toNat bs.length s (timerUpdate u) := fun bs e b hb => by
      rw [timerUpdate_mem, e, read_storeBytes_outside hb]
    rcases heffect.memory with e | ⟨x, rfl, hfits, bs, hlen, e⟩ | ⟨x, rfl, hfits, bs, hlen, e⟩
    · exact .inl fun a => by rw [timerUpdate_mem, e]
    · exact .inr (.inl ⟨x, ha, hfits, hlen ▸ houtside bs e⟩)
    · exact .inr (.inr ⟨x, ha, hfits, hlen ▸ houtside bs e⟩)
  · exact .inl fun a => by rw [hmem]
  · exact .inl fun a => rfl

/-- Settles O22: the framebuffer is written by a completed 00E0 or DXYN alone. -/
theorem onlyClearAndDrawChangeTheScreen : Obligations.OnlyClearAndDrawChangeTheScreen := by
  intro s t h
  rcases step_effect_cases h with ⟨i, u, ha, -, rfl, heffect, -⟩ | ⟨-, ⟨-, -, -, -, -, -, -, hfb, -⟩, -⟩ | ⟨-, r, rfl⟩
  · rcases heffect.screen with e | rfl | ⟨x, y, n, rfl⟩
    · exact .inl e
    · exact .inr (.inl ha)
    · exact .inr (.inr ⟨x, y, n, ha⟩)
  · exact .inl hfb
  · exact .inl rfl

/-- Settles O23: SP is moved by a completed 2NNN or 00EE alone. -/
theorem stackPointerMovesOnlyByCallAndReturn : Obligations.StackPointerMovesOnlyByCallAndReturn := by
  intro s t h
  rcases step_effect_cases h with ⟨i, u, ha, -, rfl, heffect, -⟩ | ⟨-, ⟨-, -, -, ⟨hsp, -⟩, -⟩, -⟩ | ⟨-, r, rfl⟩
  · rcases heffect.calls with ⟨hsp, -⟩ | ⟨⟨nnn, rfl⟩, -, hsp, -⟩ | ⟨rfl, hsp, -⟩
    · exact .inl hsp
    · exact .inr (.inl ⟨⟨nnn, ha⟩, hsp⟩)
    · exact .inr (.inr ⟨ha, hsp⟩)
  · exact .inl hsp
  · exact .inl rfl

/-- Settles O24: VF is written by a completed instruction alone, and those that can write it are the ones listed. -/
theorem flagRegisterWrittenOnlyByItsWriters : Obligations.FlagRegisterWrittenOnlyByItsWriters := by
  intro s t h
  rcases step_effect_cases h with ⟨i, u, ha, -, rfl, heffect, -⟩ | ⟨-, ⟨hv, -⟩, -⟩ | ⟨-, r, rfl⟩
  · rcases heffect.flag with e | hw
    · exact .inl e
    · refine .inr ⟨i, ha, ?_⟩
      cases i with
      | addVxVy x y | subVxVy x y | shrVx x y | subnVxVy x y | shlVx x y | addIVx x | drwVxVyN x y n => simp
      | ldVxNn x nn | addVxNn x nn | rndVxNn x nn | ldVxVy x y | orVxVy x y | andVxVy x y | xorVxVy x y | ldVxDt x
      | ldVxK x | ldVxMem x =>
        obtain rfl : x = VF := hw
        simp
      | _ => exact hw.elim
  · exact .inl (by simp only [State.getV, hv])
  · exact .inl rfl

end Sys2Proof.Machine

/-! SUPPORT. The faults an instruction can raise, each with its condition (R170 to R177). -/

namespace Sys2Proof.Machine

/-- An instruction raises one record at most. -/
theorem raised_eq {i : Instr} {s : State} {r r' : FaultRecord} (h : exec i s = .next (raiseFault r s))
    (h' : exec i s = .next (raiseFault r' s)) : r' = r :=
  Option.some.inj (congrArg State.fault (Host.Outcome.next.inj (h'.symm.trans h)))

/-- An instruction that raised a fault did not complete. -/
theorem not_completed_of_raised {i : Instr} {s : State} {r : FaultRecord} (h : exec i s = .next (raiseFault r s)) :
    ¬ ∃ u, exec i s = .next u ∧ Completed u := fun ⟨_, hu, hc⟩ => exec_ne_raiseFault_of_completed hu hc h

/-- Where a check `c` alone decides between one fault and completion, a fault that was raised is that one, on `c`. -/
theorem raised_of_check {c : Prop} {i : Instr} {s : State} {r r' : FaultRecord}
    (h : exec i s = .next (raiseFault r s)) (hfails : c → exec i s = .next (raiseFault r' s))
    (hpasses : ¬ c → ∃ u, exec i s = .next u ∧ Completed u) : c ∧ r' = r := by
  by_cases hc : c
  · exact ⟨hc, raised_eq h (hfails hc)⟩
  · exact absurd (hpasses hc) (not_completed_of_raised h)

/-- A record raised by the instruction at PC is raised under the condition of its row: the instruction executes in the
state with the keys sampled and IR latched, which has the operands of the state before the step. -/
theorem raisedBecause_of_exec {i : Instr} {s : State} {r : FaultRecord} (ha : AtInstr s i)
    (h : exec i (executeState s) = .next (raiseFault r (executeState s))) : RaisedBecause s r := by
  cases i with
  | ret =>
    obtain ⟨hempty, rfl⟩ := raised_of_check h exec_ret_of_empty fun hne =>
      ⟨_, exec_ret_of_pos (Nat.pos_of_ne_zero fun h0 => hne (Fin.ext h0)), afterTransfer_completed _ _ _ _⟩
    exact ⟨rfl, hempty, ha⟩
  | callNnn nnn =>
    obtain ⟨hfull, rfl⟩ := raised_of_check h (exec_callNnn_of_full nnn) fun hne =>
      ⟨_, exec_callNnn_of_lt nnn (sp_lt_of_ne_full hne), afterTransfer_completed _ _ _ _⟩
    exact ⟨rfl, hfull, nnn, ha⟩
  | ldBVx x =>
    obtain ⟨hover, rfl⟩ := raised_of_check h (exec_ldBVx_of_overruns x) fun hn =>
      ⟨_, exec_ldBVx_of_fits x (Nat.not_lt.1 hn), afterStore_completed _ _ _⟩
    exact ⟨hover, .inl ⟨x, ha, rfl⟩⟩
  | ldMemVx x =>
    obtain ⟨hover, rfl⟩ := raised_of_check h exec_ldMemVx_of_overruns fun hn =>
      ⟨_, exec_ldMemVx_of_fits (Nat.not_lt.1 hn), afterStore_completed _ _ _⟩
    exact ⟨hover, .inr (.inl ⟨x, .inl ha, rfl⟩)⟩
  | ldVxMem x =>
    obtain ⟨hover, rfl⟩ := raised_of_check h exec_ldVxMem_of_overruns fun hn =>
      ⟨_, exec_ldVxMem_of_fits (Nat.not_lt.1 hn), afterLoad_completed _ _ _⟩
    exact ⟨hover, .inr (.inl ⟨x, .inr ha, rfl⟩)⟩
  | skpVx x =>
    obtain ⟨hgt, rfl⟩ := raised_of_check h exec_skpVx_of_gt fun hn =>
      ⟨_, exec_skpVx_of_le (Nat.not_lt.1 hn), complete_outcome _⟩
    exact ⟨hgt, x, .inl ha, rfl⟩
  | sknpVx x =>
    obtain ⟨hgt, rfl⟩ := raised_of_check h exec_sknpVx_of_gt fun hn =>
      ⟨_, exec_sknpVx_of_le (Nat.not_lt.1 hn), complete_outcome _⟩
    exact ⟨hgt, x, .inr ha, rfl⟩
  | drwVxVyN x y n =>
    rcases drwVxVyN_cases x y n (executeState s) with
      hoff | ⟨hx, hy, hn, hover⟩ | ⟨hreads, row, column, hfirst⟩ | ⟨hreads, hgrid⟩
    · exact absurd ⟨_, exec_drwVxVyN_of_offGrid n hoff, complete_outcome _⟩ (not_completed_of_raised h)
    · obtain rfl := raised_eq h (exec_drwVxVyN_of_overruns hx hy hn hover)
      exact ⟨hover, .inr (.inr ⟨x, y, n, ha, hn, rfl, hx, hy⟩)⟩
    · obtain rfl := raised_eq h (exec_drwVxVyN_of_firstOffGrid hreads hfirst)
      exact ⟨x, y, n, ha, hreads, hfirst⟩
    · exact absurd ⟨_, exec_drwVxVyN_of_spriteOnGrid hreads hgrid, afterWrite_completed _ _ _⟩
        (not_completed_of_raised h)
  | subVxVy x y =>
    refine absurd ?_ (not_completed_of_raised h)
    by_cases hb : (s.getV x).toNat < (s.getV y).toNat
    · exact ⟨_, exec_subVxVy_of_borrow hb, afterWrite_completed _ _ _⟩
    · exact ⟨_, exec_subVxVy_of_le hb, afterWrite_completed _ _ _⟩
  | ldVxK x =>
    by_cases hk : (executeState s).keys = 0
    · cases congrArg State.outcome (Host.Outcome.next.inj (h.symm.trans (exec_ldVxK_of_none x hk)))
    · exact absurd ⟨_, exec_ldVxK_of_pressed x hk, afterWrite_completed _ _ _⟩ (not_completed_of_raised h)
  | _ => exact absurd ⟨_, rfl, complete_outcome _⟩ (not_completed_of_raised h)

/-- The end of a step keeps the FAULT its instruction left. -/
theorem concludeStep_fault (s u : State) : (concludeStep s u).fault = u.fault := by
  unfold concludeStep
  split <;> rfl

/-- Settles O15: FAULT is set by the fetch, whose condition is PC above 0xFFE, or by the instruction at PC. -/
theorem faultsAreRaisedOnlyOnTheirConditions : Obligations.FaultsAreRaisedOnlyOnTheirConditions := by
  intro s t r hf h hr
  have hne : s.fault ≠ some r := by simp [hf]
  rcases step_cases s with ⟨-, e⟩ | ⟨-, hh, -⟩ | ⟨-, -, hpc, e⟩ | ⟨-, -, -, -, e⟩ | ⟨hi, -, hpc, i, hd, e⟩
  · cases e.symm.trans h
  · exact absurd hf hh
  · obtain rfl := Host.Outcome.next.inj (e.symm.trans h)
    obtain rfl : .fetchOutOfRange s.pc = r := Option.some.inj hr
    exact ⟨rfl, hpc⟩
  · obtain rfl := Host.Outcome.next.inj (e.symm.trans h)
    exact absurd hr hne
  · obtain ⟨u, he, hend⟩ := exec_endsWell i (executeState s)
    rw [he] at e
    obtain rfl := Host.Outcome.next.inj (e.symm.trans h)
    rw [concludeStep_fault] at hr
    rcases hend with ⟨-, hfault, -⟩ | rfl | ⟨r', rfl⟩
    · exact absurd (hfault.symm.trans hr) hne
    · exact absurd hr hne
    · obtain rfl : r' = r := Option.some.inj hr
      exact raisedBecause_of_exec (atInstr_iff.2 ⟨hi, hf, hpc, hd⟩) he

end Sys2Proof.Machine

/-! SUPPORT. The host's actions: what restart and cold reset write, what a refused load does, and the invariant they
keep (R97, R181, R200 to R208). -/

namespace Sys2Proof.Machine

/-- A load before cold reset, or of an image that does not fit, is refused whole (R208). -/
theorem loadProgram_of_refused {s : State} {image : List Byte}
    (h : s.initialised = false ∨ 3584 < image.length) : loadProgram image s = s := by
  refine if_neg fun hc => ?_
  obtain ⟨hinit, hlen⟩ := Bool.and_eq_true_iff.1 hc
  have hfits : image.length ≤ 3584 := of_decide_eq_true hlen
  rcases h with h | h
  · exact absurd hinit (by simp [h])
  · omega

/-- Settles O2: cold reset has its two cases, neither of which writes memory or the keys, and a refused load none. -/
theorem coldResetActsOnceAndBadLoadsDoNothing : Obligations.ColdResetActsOnceAndBadLoadsDoNothing :=
  ⟨fun _ => coldReset_of_running, fun s => ⟨coldReset_mem s, coldReset_keys s, coldReset_initialised s⟩,
    fun _ _ => loadProgram_of_refused⟩

/-- Settles O3: restart writes the registers listed, and each of the others is the one before. -/
theorem restartResetsControlFlowOnly : Obligations.RestartResetsControlFlowOnly := fun _ =>
  ⟨⟨rfl, rfl, rfl, rfl, rfl, rfl, rfl, rfl⟩, fun _ => rfl, rfl, fun _ => rfl, rfl, rfl⟩

/-- Settles O60: both clear FAULT, and a cold reset of a halted block acts. -/
theorem restartAndColdResetLeaveTheHalt : Obligations.RestartAndColdResetLeaveTheHalt := by
  intro s hh
  have hvalues := coldReset_resetValues (.inr hh)
  have hrestart : ¬ Halted (restart s) := fun h => h rfl
  have hreset : ¬ Halted (coldReset s) := fun h => h (coldReset_fault s)
  have hmem : SameMem s (coldReset s) := fun a => by rw [coldReset_mem]
  have hinputs : SameInputs s (coldReset s) := by
    rw [coldReset_of_acting (.inr hh)]
    exact ⟨rfl, rfl, rfl⟩
  have hbeep : (coldReset s).beep = false := by
    rw [coldReset_of_acting (.inr hh)]
    rfl
  exact ⟨⟨hrestart, rfl⟩, hreset, hvalues, coldReset_initialised s, hbeep, hmem, coldReset_keys s, hinputs⟩

/-! ### The invariant -/

/-- A block with PC at 0x200 and no stack entry in use meets the invariant when its memory is canonical. -/
theorem inv_of_started {s : State} (hinit : s.initialised = true) (hmem : s.mem.wf = true) (hpc : s.pc = 0x200)
    (hsp : s.sp = 0) : Inv s := by
  refine ⟨hinit, hmem, ?_, fun k hk => ?_⟩
  · rw [hpc]
    decide
  · rw [hsp] at hk
    exact absurd hk (Nat.not_lt_zero _)

/-- Settles O19: cold reset leaves PC at 0x200 and the stack empty, whatever memory holds. -/
theorem invariantHoldsAtReset : Obligations.InvariantHoldsAtReset :=
  ⟨inv_of_started rfl reset_memory_wf rfl rfl, fun _ hwf => inv_of_started rfl hwf rfl rfl⟩

theorem inv_coldReset {s : State} (h : Inv s) : Inv (coldReset s) := by
  rcases coldReset_cases s with ⟨hi, hf⟩ | hact
  · rw [coldReset_of_running hi hf]
    exact h
  · rw [coldReset_of_acting hact]
    exact inv_of_started rfl h.memory rfl rfl

theorem inv_loadProgram {s : State} (image : List Byte) (h : Inv s) : Inv (loadProgram image s) := by
  by_cases hlen : image.length ≤ 3584
  · rw [loadProgram_of_accepted h.initialised hlen]
    exact ⟨h.initialised, storeBytes_wf (by omega) h.memory, h.pc, h.stack⟩
  · rw [loadProgram_of_refused (.inr (Nat.not_le.1 hlen))]
    exact h

/-- Settles O20: cold reset and restart start the block over, a load writes memory within its bound, and setting the
keys writes an input. -/
theorem invariantKeptByHostActions : Obligations.InvariantKeptByHostActions := by
  intro a s t ha hs h
  cases a with
  | step => exact absurd rfl ha
  | coldReset =>
    obtain rfl := Host.Outcome.next.inj h
    exact inv_coldReset hs
  | restart =>
    obtain rfl := Host.Outcome.next.inj h
    exact inv_of_started hs.initialised hs.memory rfl rfl
  | load image =>
    obtain rfl := Host.Outcome.next.inj h
    exact inv_loadProgram image hs
  | setKeys k =>
    obtain rfl := Host.Outcome.next.inj h
    exact inv_of_same hs rfl rfl rfl ⟨rfl, rfl⟩

end Sys2Proof.Machine
